-- ==== Sys2Proof/Word.lean ====
section
/-! DEFINITION. The bit-vector types of the core, by the names spec/ uses for them (R11, R54, R30). -/

namespace Sys2Proof

/-- `u64`: a state word, a seed, a digest word, a length (R11, R64). -/
abbrev Word := BitVec 64

/-- `u8`: one byte of a message or of BUF (R11, R12). -/
abbrev Byte := BitVec 8

/-- The 32-bit command word CMD (R54). -/
abbrev CmdWord := BitVec 32

/-- The 4-bit register index of a host read (R30). -/
abbrev RegIndex := BitVec 4

end Sys2Proof
end

