-- ==== Sys2Proof/Config.lean ====
section
/-! DEFINITION. What has no value in spec/: the two default seeds, fixed when a core is built (R9), and what a core
returns for a result register that holds no value (R33). PORT_PROTOCOL, the third open parameter of R9, enters no
rule and so has no definition here. -/

namespace Sys2Proof

/-- DEFAULT_SEED1, the first seed of HASH64 and HASH32: an OPEN parameter (R9, R115, D10), so a constant
without a body. Nothing can be proved of its value (DESIGN CHOICE, safe: entry 8). -/
opaque Config.defaultSeed1 : Word

/-- DEFAULT_SEED2, the second seed of HASH64 and HASH32: an OPEN parameter (R9, R115, D10), so a constant
without a body. Nothing can be proved of its value (DESIGN CHOICE, safe: entry 8). -/
opaque Config.defaultSeed2 : Word

/-- What the core returns for the register of this index, R_H1 or R_H2, while RESULT_VALID = 0 (R33: "some value in
that state; which value is unspecified"), after the host has sent this many packets and resets. A FREE VALUE, a
constant without a body: nothing can be proved of it (DESIGN CHOICE, safe: entry 6). -/
opaque Config.unwrittenResult : RegIndex → Nat → Word

end Sys2Proof
end

