-- ==== Sys2Proof/Syntax.lean ====
section
/-! DEFINITION. The commands of the core with the operands each one reads, the packet that carries a command,
and the three interactions of the host. -/

namespace Sys2Proof

/-- The six commands of the opcode table (R55), each with exactly the packet fields it reads (R56). -/
inductive Instr where
  /-- `INIT <u64>, <u64>`: SEED1, SEED2 (R91). -/
  | init (seed1 seed2 : Word)
  /-- `UPDATE <bytes>`: MSG is the fragment (R92). -/
  | update (msg : List Byte)
  /-- `FINAL`: no operand (R93). -/
  | final
  /-- `HASH128 <bytes>, <u64>, <u64>`: MSG, SEED1, SEED2 (R86). -/
  | hash128 (msg : List Byte) (seed1 seed2 : Word)
  /-- `HASH64 <bytes>`: MSG (R87). -/
  | hash64 (msg : List Byte)
  /-- `HASH32 <bytes>`: MSG (R88). -/
  | hash32 (msg : List Byte)
deriving DecidableEq, Repr

/-- A command packet {CMD, SEED1, SEED2, MSG} (R53). Every packet has all four fields; MSG carries its own
length. -/
structure Packet where
  cmd : CmdWord
  seed1 : Word
  seed2 : Word
  msg : List Byte
deriving DecidableEq, Repr

/-- What the host can do to the core (R123), and a reset that arrives while a command executes (R113). -/
inductive HostAction where
  /-- The reset signal, between commands. -/
  | reset
  /-- The reset signal while the command of this packet executes. -/
  | resetDuring (p : Packet)
  /-- One command packet, taken as one value (R117). -/
  | issue (p : Packet)
  /-- A register read by its 4-bit index (R30). -/
  | read (idx : RegIndex)
deriving DecidableEq, Repr

end Sys2Proof
end

