-- ==== Sys2Proof/WellFormed.lean ====
section
/-! DEFINITION. What makes a packet, a command or a host action one that exists: its message is shorter than
2^64 bytes (R10, R53). The step itself does not check it (DESIGN CHOICE, safe: entry 9). -/

namespace Sys2Proof

/-- A message operand has `0 <= |MSG| <= 2^64 − 1` (R53, R10). -/
abbrev msgWf (msg : List Byte) : Prop := msg.length ≤ 2 ^ 64 - 1

/-- A packet the host can send (R53). -/
abbrev Packet.wf (p : Packet) : Prop := msgWf p.msg

/-- A command whose operands a packet can carry (R53, R56). -/
def Instr.wf : Instr → Bool
  | .init _ _ => true
  | .update msg => decide (msgWf msg)
  | .final => true
  | .hash128 msg _ _ => decide (msgWf msg)
  | .hash64 msg => decide (msgWf msg)
  | .hash32 msg => decide (msgWf msg)

/-- A host action that exists: the packet it carries, if any, is well formed. -/
def HostAction.wf : HostAction → Bool
  | .reset => true
  | .resetDuring p => decide p.wf
  | .issue p => decide p.wf
  | .read _ => true

end Sys2Proof
end

