-- ==== Sys2Proof/Decode.lean ====
section
/-! DEFINITION. Decoding of a command packet (R54, R55, R58, R59), total on every packet, and the encoder
(R55, R61). -/

namespace Sys2Proof

/-- OPC, bits [3:0] of the command word (R54). -/
def opc (w : CmdWord) : BitVec 4 := w.extractLsb' 0 4

/-- RSV, bits [31:4] of the command word (R54). -/
def rsv (w : CmdWord) : BitVec 28 := w.extractLsb' 4 28

/-- Why a command word is illegal (R58). Both reasons fail with the one code ILLEGAL_COMMAND (DESIGN CHOICE, safe:
entry 16). -/
inductive Illegal where
  /-- RSV is not 0. -/
  | reservedBits
  /-- OPC is 0x0 or 0x7 to 0xF. -/
  | reservedOpcode
deriving DecidableEq, Repr

/-- The result of decoding: a command, or an illegal word by name (R58, R59). -/
inductive Decoded where
  | command (i : Instr)
  | illegal (why : Illegal)
deriving DecidableEq, Repr

/-- R59, with the operands R56 gives each command; a field a command does not use is ignored (R53). -/
def decode (p : Packet) : Decoded :=
  if rsv p.cmd ≠ 0 then .illegal .reservedBits
  else if opc p.cmd = 0x1 then .command (.init p.seed1 p.seed2)
  else if opc p.cmd = 0x2 then .command (.update p.msg)
  else if opc p.cmd = 0x3 then .command .final
  else if opc p.cmd = 0x4 then .command (.hash128 p.msg p.seed1 p.seed2)
  else if opc p.cmd = 0x5 then .command (.hash64 p.msg)
  else if opc p.cmd = 0x6 then .command (.hash32 p.msg)
  else .illegal .reservedOpcode

/-- The command decoded, if the word is legal. -/
def Decoded.command? : Decoded → Option Instr
  | .command i => some i
  | .illegal _ => none

/-- The command word of each command: `zext_32(OPC)` (R55). -/
def cmdWord : Instr → CmdWord
  | .init _ _ => 0x00000001
  | .update _ => 0x00000002
  | .final => 0x00000003
  | .hash128 _ _ _ => 0x00000004
  | .hash64 _ => 0x00000005
  | .hash32 _ => 0x00000006

/-- The packet of a command: "Operands a command ignores (rule R56) are written nowhere and encoded as 0"
(R61). -/
def encode (i : Instr) : Packet :=
  match i with
  | .init s1 s2 => ⟨cmdWord i, s1, s2, []⟩
  | .update msg => ⟨cmdWord i, 0, 0, msg⟩
  | .final => ⟨cmdWord i, 0, 0, []⟩
  | .hash128 msg s1 s2 => ⟨cmdWord i, s1, s2, msg⟩
  | .hash64 msg => ⟨cmdWord i, 0, 0, msg⟩
  | .hash32 msg => ⟨cmdWord i, 0, 0, msg⟩

/-- The packet whose bits, numbered as spec/opcode_table.json numbers them, are `w`: CMD is bits [31:0]; a
later word counts on from there, SEED1 as bits [95:32] and SEED2 as bits [159:96]; MSG has no bits and is empty
(DESIGN CHOICE, safe: entry 17). Bits at and above `nbits` are 0. -/
def packetOfTableWord (nbits w : Nat) : Packet :=
  let v := w % 2 ^ nbits
  ⟨BitVec.ofNat 32 v, BitVec.ofNat 64 (v / 2 ^ 32), BitVec.ofNat 64 (v / 2 ^ 96), []⟩

/-- The instruction the decoder reads from a row of spec/opcode_table.json whose bits are `w`. -/
def decodeTableWord (nbits w : Nat) : Option Instr :=
  (decode (packetOfTableWord nbits w)).command?

end Sys2Proof
end

