-- ==== Sys2Proof/Machine/State.lean ====
section
/-! DEFINITION. The state of the core (R16), the memory BUF (R27, R37), the reasons a step can stop, and the
state after reset (R36, R113). -/

namespace Sys2Proof.Machine

/-- BUF as data: the cells that differ from what an unlisted byte reads as, by rising address. The only
memory of the core is BUF, addresses 0 to 191 (R27, R37); a message is an operand and not memory. -/
abbrev Memory := List Host.Cell

/-- What a byte of BUF that nothing has written reads as. DESIGN CHOICE, unsafe (entry 3): R27 and R36 give
these bytes no architectural value. -/
def Memory.unlisted : Byte := 0x00

/-- The canonical form: addresses strictly rising and below 192, and no entry equal to what an unlisted byte
reads as. Equal memories are then equal lists. -/
abbrev Memory.wf (m : Memory) : Prop :=
  m.Pairwise (fun x y => x.1 < y.1) ∧ ∀ c ∈ m, c.1 < 192 ∧ c.2 ≠ Memory.unlisted

/-- The outcome codes held in STATUS.ERR (R98). Codes 4 to 15 are reserved and never written. -/
inductive ErrCode where
  /-- 0: the command succeeded. -/
  | ok
  /-- 1: RSV ≠ 0, or OPC is 0x0 or 0x7 to 0xF. -/
  | illegalCommand
  /-- 2: UPDATE or FINAL while CTX_VALID = 0. -/
  | noContext
  /-- 3: UPDATE with LEN + |MSG| > 2^64 − 1. -/
  | lengthOverflow
deriving DecidableEq, Repr

/-- What the host gets from a register read: 32 bits for STATUS, 64 bits for the others (R30, R43), or the recorded
fault of R33. -/
inductive RegValue where
  | bits32 (v : BitVec 32)
  | bits64 (v : Word)
  /-- The read of a result register that holds no value: R33's "reading an unwritten register (fault in the model)".
  A fault of the spec is "a recorded failure that refutes the observation" (93_implementation_defined.md), so it is
  recorded here and the machine goes on; `v` is the unspecified value the hardware returned (entry 6). -/
  | unwritten (v : Word)
deriving DecidableEq, Repr

/-- Why the machine stops with a fault: it has no constructor, since the spec lets nothing stop the core (R97,
R123). -/
inductive Fault where
deriving DecidableEq, Repr

/-- Why an instruction is refused. -/
inductive Refusal where
  /-- Reserved for an arm of `exec` whose instruction has no meaning yet. No arm raises it: all six commands
  have their meaning. Safe. -/
  | notModelled (mnemonic : String)
deriving DecidableEq, Repr

/-- The architectural state of R16, and beside it the model's own (the last three fields, DESIGN CHOICES, safe:
entries 1, 6 and 7): the host's side of R123, and the counter the free values of R33 are drawn with. -/
structure State where
  /-- CTX_VALID: a streaming context exists (R24). -/
  ctxValid : Bool
  /-- LEN, the source's totalLength (R25). -/
  len : Word
  /-- CNT, the source's bufferedByteCount, an 8-bit count from 0 to 191 (R26; the type is a DESIGN CHOICE, safe:
  entry 12). -/
  cnt : Fin 192
  /-- BUF[0..191] (R27). -/
  buf : Memory
  /-- S[0..11]: the seeds in short form, the MixState in long form (R17). -/
  S : Vector Word 12
  /-- RES_H1 (R33). -/
  resH1 : Word
  /-- RES_H2 (R33). -/
  resH2 : Word
  /-- RESULT_VALID (R31, R33). -/
  resultValid : Bool
  /-- ERR: the outcome of the most recent command (R31, R98). -/
  err : ErrCode
  /-- ERR_SEEN: sticky until reset (R31, R99). -/
  errSeen : Bool
  /-- The model's own: what the host still does, oldest first (DESIGN CHOICE, safe: entry 1). -/
  script : List HostAction
  /-- The model's own: the register values the host has read, oldest first (DESIGN CHOICE, safe: entry
  7). -/
  reads : List RegValue
  /-- The model's own: how many packets and resets the host has sent. It only tells the free values of R33 apart
  (DESIGN CHOICE, safe: entry 6). -/
  issued : Nat
deriving DecidableEq, Repr

/-- The state after reset (R36, R113). BUF, S, RES_H1 and RES_H2 hold no architectural value; that they are 0
here is a DESIGN CHOICE, unsafe (entries 3, 4 and 5). The host has nothing left to do, has read nothing and has
sent nothing. -/
def State.reset : State where
  ctxValid := false
  len := 0
  cnt := 0
  buf := []
  S := Vector.replicate 12 0
  resH1 := 0
  resH2 := 0
  resultValid := false
  err := .ok
  errSeen := false
  script := []
  reads := []
  issued := 0

end Sys2Proof.Machine
end

