-- ==== Sys2Proof/Machine/Ops.lean ====
section
/-! DEFINITION. The named operations over BUF, over arrays of words and over the result and error registers.
Failing a command and completing one (R99, R100) are the two shared ends of every meaning. -/

namespace Sys2Proof.Machine

/-- What a step or a meaning answers. -/
abbrev Outcome := Host.Outcome State Fault Refusal

/-- SC_CONST, the hardwired constant (R8, R23; UNVERIFIED, unsafe: entry 13). -/
def scConst : Word := 0xDEADBEEFDEADBEEF

/-- `BUF[a]`. -/
def Memory.read (m : Memory) (a : Nat) : Byte :=
  match m with
  | [] => Memory.unlisted
  | c :: rest => if c.1 = a then c.2 else Memory.read rest a

/-- `BUF[a] <- b`, keeping the canonical form: writing what an unlisted byte reads as removes the entry. -/
def Memory.write (m : Memory) (a : Nat) (b : Byte) : Memory :=
  match m with
  | [] => if b = Memory.unlisted then [] else [(a, b)]
  | c :: rest =>
    if a < c.1 then (if b = Memory.unlisted then c :: rest else (a, b) :: c :: rest)
    else if a = c.1 then (if b = Memory.unlisted then rest else (a, b) :: rest)
    else c :: Memory.write rest a b

/-- The `n` bytes `BUF[off..off+n)` (R12). The meanings call it with `off + n <= 192` only (R13). -/
def Memory.readRange (m : Memory) (off n : Nat) : List Byte :=
  (List.range n).map fun j => m.read (off + j)

/-- `MemWrite(BUF, off, B)` (R13): the bytes of `bs` go to `BUF[off..off+|bs|)`. The meanings call it with
`off + |bs| <= 192` only (R13). -/
def Memory.writeRange (m : Memory) (off : Nat) (bs : List Byte) : Memory :=
  match bs with
  | [] => m
  | b :: rest => (m.write off b).writeRange (off + 1) rest

/-- `h[i]` of an array of `n` words; an index counts mod `n` (R13). -/
def wordAt {n : Nat} [NeZero n] (h : Vector Word n) (i : Nat) : Word := h.get (Fin.ofNat n i)

/-- `h[i] <- v`; an index counts mod `n` (R13). -/
def setWord {n : Nat} [NeZero n] (h : Vector Word n) (i : Nat) (v : Word) : Vector Word n :=
  h.set (Fin.ofNat n i).val v (Fin.ofNat n i).isLt

/-- `h[i] = h[i] + v`, modulo 2^64 (R64). -/
def addWord {n : Nat} [NeZero n] (h : Vector Word n) (i : Nat) (v : Word) : Vector Word n :=
  setWord h i (wordAt h i + v)

/-- What a failed command leaves (R97, R99): the three error fields written and nothing else changed. -/
def State.failed (s : State) (code : ErrCode) : State :=
  { s with err := code, errSeen := true, resultValid := false }

/-- What a command that does not fail ends with (R100): `ERR <- 0`; ERR_SEEN keeps its value. -/
def State.completed (s : State) : State := { s with err := .ok }

/-- `raise CommandError(code)` (R97, R99). The machine goes on: a failed command is a next state. -/
def raiseCommandError (code : ErrCode) (s : State) : Outcome := .next (s.failed code)

/-- The success epilogue (R100). -/
def succeed (s : State) : Outcome := .next s.completed

/-- `RES_H1 <- h1; RES_H2 <- h2; RESULT_VALID <- 1` (R33, R86 to R88, R93). -/
def State.writeResult (s : State) (h1 h2 : Word) : State :=
  { s with resH1 := h1, resH2 := h2, resultValid := true }

end Sys2Proof.Machine
end

