-- ==== Sys2Proof/Machine/Operands.lean ====
section
/-! DEFINITION. How the datapath reads byte sequences: slices, little-endian words and partial words, blocks
(R12, R13, R38, R40, R66). A sequence is a message operand or a range of BUF; no access has an alignment
requirement (R42). -/

namespace Sys2Proof.Machine

/-- `M[i..j)` (R12). -/
def slice (m : List Byte) (i j : Nat) : List Byte := (m.drop i).take (j - i)

/-- `zeros(n)` (R12). -/
def zeros (n : Nat) : List Byte := List.replicate n 0x00

/-- The number `LE(B)` = sum of `B[j] * 2^(8*j)` (R12). -/
def leNat (bs : List Byte) : Nat :=
  match bs with
  | [] => 0
  | b :: rest => b.toNat + 2 ^ 8 * leNat rest

/-- `LE(B)` as a u64, for at most 8 bytes (R12, R38, R40): the sequence's first byte is bits [7:0]. -/
def le (bs : List Byte) : Word := BitVec.ofNat 64 (leNat bs)

/-- `MemRead(M, off, n)` for `1 <= n <= 8` and `off + n <= |M|` (R13). -/
def memRead (m : List Byte) (off n : Nat) : Word := le (slice m off (off + n))

/-- BlockWords: the 12 words of a 96-byte block (R66). -/
def blockWords (b : List Byte) : Vector Word 12 := Vector.ofFn fun i : Fin 12 => memRead b (8 * i.val) 8

/-- Block k of a message, `M[96k..96k+96)` (R69). -/
def block (m : List Byte) (k : Nat) : List Byte := slice m (96 * k) (96 * k + 96)

end Sys2Proof.Machine
end

