-- ==== Sys2Proof/Machine/BlockMixer.lean ====
section
/-! DEFINITION. The Block Mixer (41_block_mixer.md): rotl64, MixInit, Mix, and Mix over the complete blocks of
a message. -/

namespace Sys2Proof.Machine

/-- `rotl64(x, k)` for `1 <= k <= 63` (R65). -/
def rotl64 (x : Word) (k : Nat) : Word := (x <<< k) ||| (x >>> (64 - k))

/-- `h[i] = rotl64(h[i], k)`. -/
def rotWord {n : Nat} [NeZero n] (h : Vector Word n) (i k : Nat) : Vector Word n :=
  setWord h i (rotl64 (wordAt h i) k)

/-- `h[i] = h[i] ^ v`. -/
def xorWord {n : Nat} [NeZero n] (h : Vector Word n) (i : Nat) (v : Word) : Vector Word n :=
  setWord h i (wordAt h i ^^^ v)

/-- MixInit (R18): seed1 in words 0, 3, 6, 9, seed2 in 1, 4, 7, 10, SC_CONST in 2, 5, 8, 11. -/
def mixInit (s1 s2 : Word) : Vector Word 12 :=
  #v[s1, s2, scConst, s1, s2, scConst, s1, s2, scConst, s1, s2, scConst]

/-- The rotation schedule MR of Mix (R67, R68; UNVERIFIED, unsafe: entry 13). -/
def mixRot : List Nat := [11, 32, 43, 31, 17, 28, 39, 57, 55, 54, 22, 46]

/-- Step i of Mix with rotation amount k (R67). -/
def mixStep (d h : Vector Word 12) (i k : Nat) : Vector Word 12 :=
  let h := addWord h i (wordAt d i)
  let h := xorWord h (i + 2) (wordAt h (i + 10))
  let h := xorWord h (i + 11) (wordAt h i)
  let h := rotWord h i k
  addWord h (i + 11) (wordAt h (i + 1))

/-- Mix(h, B), one Block Mixer round (R67). -/
def mix (h : Vector Word 12) (b : List Byte) : Vector Word 12 :=
  mixRot.zipIdx.foldl (fun h (k, i) => mixStep (blockWords b) h i k) h

/-- Mix over the first `nb` complete blocks of `m`, in message order (R69, R73, R92). -/
def mixBlocks (h : Vector Word 12) (m : List Byte) (nb : Nat) : Vector Word 12 :=
  (List.range nb).foldl (fun h k => mix h (block m k)) h

end Sys2Proof.Machine
end

