-- ==== Sys2Proof/Machine/LongFinalizer.lean ====
section
/-! DEFINITION. The Long Finalizer and the long path (42_long_finalizer.md): TailBlock, EndPartial, End,
LongHash. -/

namespace Sys2Proof.Machine

/-- TailBlock(t) for `|t| <= 95`: `t ++ zeros(95 − r) ++ [r]` (R70). -/
def tailBlock (t : List Byte) : List Byte := t ++ zeros (95 - t.length) ++ [BitVec.ofNat 8 t.length]

/-- The rotation schedule ER of EndPartial (R71; UNVERIFIED, unsafe: entry 13). -/
def endRot : List Nat := [44, 15, 34, 21, 38, 33, 10, 13, 38, 53, 42, 54]

/-- Step i of EndPartial with rotation amount k (R71). -/
def endPartialStep (h : Vector Word 12) (i k : Nat) : Vector Word 12 :=
  let h := addWord h (i + 11) (wordAt h (i + 1))
  let h := xorWord h (i + 2) (wordAt h (i + 11))
  rotWord h (i + 1) k

/-- EndPartial(h), one finishing round (R71). -/
def endPartial (h : Vector Word 12) : Vector Word 12 :=
  endRot.zipIdx.foldl (fun h (k, i) => endPartialStep h i k) h

/-- End(h, TB), the Long Finalizer: the whole tail block is absorbed once, then three rounds run with no data
(R72, C2). -/
def endLong (h : Vector Word 12) (tb : List Byte) : Vector Word 12 :=
  let h := (List.range 12).foldl (fun h i => addWord h i (wordAt (blockWords tb) i)) h
  endPartial (endPartial (endPartial h))

/-- LongHash(M, s1, s2), for messages of 192 bytes or more (R73). -/
def longHash (m : List Byte) (s1 s2 : Word) : Word × Word :=
  let nb := m.length / 96
  let h := endLong (mixBlocks (mixInit s1 s2) m nb) (tailBlock (slice m (96 * nb) m.length))
  (wordAt h 0, wordAt h 1)

end Sys2Proof.Machine
end

