-- ==== Sys2Proof/Machine/ShortPath.lean ====
section
/-! DEFINITION. The Short-Path Hasher (43_short_path.md), over a 4-word state whose words 0 to 3 are
a, b, c, d. -/

namespace Sys2Proof.Machine

/-- ShortInit: (a, b, c, d) = (s1, s2, SC_CONST, SC_CONST) (R19). -/
def shortInit (s1 s2 : Word) : Vector Word 4 := #v[s1, s2, scConst, scConst]

/-- The rotation schedule SR of ShortMix (R75; UNVERIFIED, unsafe: entry 13). -/
def shortMixRot : List Nat := [50, 52, 30, 41, 54, 48, 38, 37, 62, 34, 5, 36]

/-- Step j of ShortMix with rotation amount k (R75). -/
def shortMixStep (h : Vector Word 4) (j k : Nat) : Vector Word 4 :=
  let h := rotWord h (j + 2) k
  let h := addWord h (j + 2) (wordAt h (j + 3))
  xorWord h j (wordAt h (j + 2))

/-- ShortMix, one short-mix round (R75). -/
def shortMix (h : Vector Word 4) : Vector Word 4 :=
  shortMixRot.zipIdx.foldl (fun h (k, j) => shortMixStep h j k) h

/-- The rotation schedule SE of ShortEnd: 11 amounts (R76; UNVERIFIED, unsafe: entry 13). -/
def shortEndRot : List Nat := [15, 52, 26, 51, 28, 9, 47, 54, 32, 25, 63]

/-- Step j of ShortEnd with rotation amount k (R76). -/
def shortEndStep (h : Vector Word 4) (j k : Nat) : Vector Word 4 :=
  let h := xorWord h (j + 3) (wordAt h (j + 2))
  let h := rotWord h (j + 2) k
  addWord h (j + 3) (wordAt h (j + 2))

/-- ShortEnd, the Short End routine (R76). -/
def shortEnd (h : Vector Word 4) : Vector Word 4 :=
  shortEndRot.zipIdx.foldl (fun h (k, j) => shortEndStep h j k) h

/-- Pair absorption at offset p (R78). -/
def absorbPair (m : List Byte) (h : Vector Word 4) (p : Nat) : Vector Word 4 :=
  let h := addWord h 2 (memRead m p 8)
  let h := addWord h 3 (memRead m (p + 8) 8)
  shortMix h

/-- Group absorption at offset p (R77). -/
def absorbGroup (m : List Byte) (h : Vector Word 4) (p : Nat) : Vector Word 4 :=
  let h := addWord h 2 (memRead m p 8)
  let h := addWord h 3 (memRead m (p + 8) 8)
  let h := shortMix h
  let h := addWord h 0 (memRead m (p + 16) 8)
  addWord h 1 (memRead m (p + 24) 8)

/-- Length injection: `d = d + (zext_64(N) << 56)` (R79). -/
def injectLength (n : Nat) (h : Vector Word 4) : Vector Word 4 := addWord h 3 (BitVec.ofNat 64 n <<< 56)

/-- Tail assembly of the last 0 to 15 bytes into c and d (R80). -/
def absorbTail (h : Vector Word 4) (t : List Byte) : Vector Word 4 :=
  if t.length = 0 then addWord (addWord h 2 scConst) 3 scConst
  else if t.length ≤ 8 then addWord h 2 (memRead t 0 t.length)
  else addWord (addWord h 2 (memRead t 0 8)) 3 (memRead t 8 (t.length - 8))

/-- Every complete 32-byte group, in order (R81). -/
def absorbGroups (m : List Byte) (h : Vector Word 4) : Vector Word 4 :=
  (List.range (m.length / 32)).foldl (fun h g => absorbGroup m h (32 * g)) h

/-- The offset after the groups and, where 16 to 31 bytes remain, after the pair (R81). -/
def tailOffset (n : Nat) : Nat :=
  let p := 32 * (n / 32)
  if n - p ≥ 16 then p + 16 else p

/-- The pair, where 16 to 31 bytes remain after the groups (R78, R81). -/
def absorbLastPair (m : List Byte) (h : Vector Word 4) : Vector Word 4 :=
  let p := 32 * (m.length / 32)
  if m.length - p ≥ 16 then absorbPair m h p else h

/-- Short(M, s1, s2), for messages of fewer than 192 bytes (R81). -/
def short (m : List Byte) (s1 s2 : Word) : Word × Word :=
  let h := absorbLastPair m (absorbGroups m (shortInit s1 s2))
  let h := absorbTail (injectLength m.length h) (slice m (tailOffset m.length) m.length)
  let h := shortEnd h
  (wordAt h 0, wordAt h 1)

end Sys2Proof.Machine
end

