-- ==== Sys2Proof/Machine/OneShot.lean ====
section
/-! DEFINITION. The one-shot dispatch, the projections and the commands HASH128, HASH64 and HASH32
(44_oneshot.md). -/

namespace Sys2Proof.Machine

/-- Hash128: the path is selected by the total length alone (R83). -/
def hash128 (m : List Byte) (s1 s2 : Word) : Word × Word :=
  if m.length < 192 then short m s1 s2 else longHash m s1 s2

/-- Project64(h1, h2) = h1 (R85). -/
def project64 (h : Word × Word) : Word := h.1

/-- Project32(h1, h2) = h1[31:0] (R85). -/
def project32 (h : Word × Word) : BitVec 32 := h.1.extractLsb' 0 32

/-- HASH64 under seeds `d1`, `d2`: h1, and 0 in RES_H2 (R87). -/
def hash64With (d1 d2 : Word) (msg : List Byte) (s : State) : Outcome :=
  succeed (s.writeResult (project64 (hash128 msg d1 d2)) 0)

/-- HASH32 under seeds `d1`, `d2`: zext_64(h1[31:0]), and 0 in RES_H2 (R88). -/
def hash32With (d1 d2 : Word) (msg : List Byte) (s : State) : Outcome :=
  succeed (s.writeResult ((project32 (hash128 msg d1 d2)).setWidth 64) 0)

/-- HASH128 (R86). -/
def execHash128 (msg : List Byte) (seed1 seed2 : Word) (s : State) : Outcome :=
  succeed (s.writeResult (hash128 msg seed1 seed2).1 (hash128 msg seed1 seed2).2)

/-- HASH64 (R87): the seeds are the parameters of R9. -/
def execHash64 (msg : List Byte) (s : State) : Outcome :=
  hash64With Config.defaultSeed1 Config.defaultSeed2 msg s

/-- HASH32 (R88): the seeds are the parameters of R9. -/
def execHash32 (msg : List Byte) (s : State) : Outcome :=
  hash32With Config.defaultSeed1 Config.defaultSeed2 msg s

end Sys2Proof.Machine
end

