-- ==== Sys2Proof/Machine/Streaming.lean ====
section
/-! DEFINITION. The Streaming Accumulator: INIT, UPDATE and FINAL (45_streaming.md). -/

namespace Sys2Proof.Machine

/-- The context INIT leaves (R91). S[2..11] and BUF keep their contents (D25). -/
def startStream (seed1 seed2 : Word) (s : State) : State :=
  { s with len := 0, cnt := 0, S := setWord (setWord s.S 0 seed1) 1 seed2, ctxValid := true }

/-- INIT (R91). -/
def execInit (seed1 seed2 : Word) (s : State) : Outcome := succeed (startStream seed1 seed2 s)

/-- The words Mix starts from in UPDATE's mixing branch: promotion in short form, else S (R92, R18). -/
def State.mixStart (s : State) : Vector Word 12 :=
  if s.len.toNat < 192 then mixInit (wordAt s.S 0) (wordAt s.S 1) else s.S

/-- `T = BUF[0..CNT) ++ F` (R92). -/
def State.joined (s : State) (f : List Byte) : List Byte := s.buf.readRange 0 s.cnt.val ++ f

/-- UPDATE's first branch: the fragment fits in BUF and is stashed (R92). -/
def stashFragment (f : List Byte) (s : State) (fits : s.cnt.val + f.length < 192) : State :=
  { s with
    buf := s.buf.writeRange s.cnt.val f
    cnt := ⟨s.cnt.val + f.length, fits⟩
    len := s.len + BitVec.ofNat 64 f.length }

/-- UPDATE's second branch: every complete block of T is mixed and the rest is stashed at BUF[0] (R92, C3). -/
def mixFragment (f : List Byte) (s : State) : State :=
  let t := s.joined f
  let nb := t.length / 96
  { s with
    buf := s.buf.writeRange 0 (slice t (96 * nb) t.length)
    cnt := Fin.ofNat 192 (t.length % 96)
    S := mixBlocks s.mixStart t nb
    len := s.len + BitVec.ofNat 64 f.length }

/-- What a successful UPDATE does to the context (R92). -/
def absorbFragment (f : List Byte) (s : State) : State :=
  if fits : s.cnt.val + f.length < 192 then stashFragment f s fits else mixFragment f s

/-- UPDATE (R92), its checks in the order of R101. -/
def execUpdate (msg : List Byte) (s : State) : Outcome :=
  if s.ctxValid = false then raiseCommandError .noContext s
  else if s.len.toNat + msg.length > 2 ^ 64 - 1 then raiseCommandError .lengthOverflow s
  else succeed (absorbFragment msg s)

/-- The digest of a long-form stream (R93): a complete buffered block is mixed first, and the rest, at most 95
bytes (C5), is the tail. -/
def longStreamDigest (s : State) : Word × Word :=
  let h := if s.cnt.val ≥ 96 then mix s.S (s.buf.readRange 0 96) else s.S
  let p := if s.cnt.val ≥ 96 then 96 else 0
  let h := endLong h (tailBlock (s.buf.readRange p (s.cnt.val - p)))
  (wordAt h 0, wordAt h 1)

/-- The digest FINAL computes (R93). -/
def streamDigest (s : State) : Word × Word :=
  if s.len.toNat < 192 then short (s.buf.readRange 0 s.len.toNat) (wordAt s.S 0) (wordAt s.S 1)
  else longStreamDigest s

/-- FINAL (R93). It writes none of CTX_VALID, LEN, CNT, BUF and S (R94). -/
def execFinal (s : State) : Outcome :=
  if s.ctxValid = false then raiseCommandError .noContext s
  else succeed (s.writeResult (streamDigest s).1 (streamDigest s).2)

end Sys2Proof.Machine
end

