-- ==== Sys2Proof/Machine/Dispatch.lean ====
section
/-! DEFINITION. One arm per command (R55). -/

namespace Sys2Proof.Machine

/-- The effect of a command once decoded. -/
def exec (i : Instr) (s : State) : Host.Outcome State Fault Refusal :=
  match i with
  | .init seed1 seed2 => Sys2Proof.Machine.execInit seed1 seed2 s
  | .update msg => Sys2Proof.Machine.execUpdate msg s
  | .final => Sys2Proof.Machine.execFinal s
  | .hash128 msg seed1 seed2 => Sys2Proof.Machine.execHash128 msg seed1 seed2 s
  | .hash64 msg => Sys2Proof.Machine.execHash64 msg s
  | .hash32 msg => Sys2Proof.Machine.execHash32 msg s

end Sys2Proof.Machine
end

