-- ==== Sys2Proof/Machine/Flags.lean ====
section
/-! DEFINITION. The STATUS register and its derived bit CTX_LONG (R29, R31, R32). The core has no other flags
(R21). -/

namespace Sys2Proof.Machine

/-- The 4-bit code of an outcome (R98). -/
def ErrCode.code : ErrCode → BitVec 4
  | .ok => 0
  | .illegalCommand => 1
  | .noContext => 2
  | .lengthOverflow => 3

/-- One bit of STATUS as a 32-bit value. -/
def statusBit (b : Bool) : BitVec 32 := (BitVec.ofBool b).setWidth 32

/-- CTX_LONG: 1 iff CTX_VALID = 1 and LEN >= 192 (R29, R31). -/
def State.ctxLong (s : State) : Bool := s.ctxValid && decide (192 ≤ s.len.toNat)

/-- STATUS, R32's formula. -/
def State.status (s : State) : BitVec 32 :=
  (BitVec.ofNat 32 s.cnt.val <<< 8) ||| (s.err.code.setWidth 32 <<< 4) ||| (statusBit s.errSeen <<< 3)
    ||| (statusBit s.resultValid <<< 2) ||| (statusBit s.ctxLong <<< 1) ||| statusBit s.ctxValid

end Sys2Proof.Machine
end

