-- ==== Sys2Proof/Machine/HostPort.lean ====
section
/-! DEFINITION. What each interaction of the host does (R123): issuing a packet, reading a register, resetting
the core. -/

namespace Sys2Proof.Machine

/-- A result register whose bits are `bits`, as the host reads it at index `idx`: while RESULT_VALID = 0 it holds no
value, the read is the recorded fault of R33, and what the hardware returns is a free value (entry 6). It changes
only with a packet or a reset, so two reads with no command between them return the same (R44). -/
def State.resultReg (s : State) (idx : RegIndex) (bits : Word) : RegValue :=
  if s.resultValid then .bits64 bits else .unwritten (Config.unwrittenResult idx s.issued)

/-- The host-readable registers by index (R30, R31, R33, R34). -/
def State.readReg (s : State) (idx : RegIndex) : RegValue :=
  if idx = 0x0 then .bits32 s.status
  else if idx = 0x1 then s.resultReg idx s.resH1
  else if idx = 0x2 then s.resultReg idx s.resH2
  else if idx = 0x3 then .bits64 s.len
  else .bits64 0

/-- A host register read: no side effect on the core (R44); the host keeps the value (DESIGN CHOICE, safe: entry 7). -/
def hostRead (idx : RegIndex) (s : State) : Outcome := .next { s with reads := s.reads ++ [s.readReg idx] }

/-- A command packet: decoded, then executed; an illegal word fails with ILLEGAL_COMMAND before any other
check (R58, R59, R101). -/
def issuePacket (p : Packet) (s : State) : Outcome :=
  match decode p with
  | .command i => exec i s
  | .illegal _ => raiseCommandError .illegalCommand s

/-- The state reset leaves (R113): every piece of core state at its reset value (for BUF, S and the results a DESIGN
CHOICE, unsafe: entry 10). The model's own fields are not the core's and stay. -/
def resetCore (s : State) : State :=
  { State.reset with script := s.script, reads := s.reads, issued := s.issued }

/-- The host has sent one more packet or reset: from here on the free values of R33 are new ones (entry 6). -/
def State.counted (s : State) : State := { s with issued := s.issued + 1 }

/-- One interaction of the host (R123). A reset that arrives while a command executes leaves what a reset
leaves: the command has no effect (R113; DEDUCED, safe: entry 11). -/
def hostAct (a : HostAction) (s : State) : Outcome :=
  match a with
  | .reset => .next (resetCore s.counted)
  | .resetDuring _ => .next (resetCore s.counted)
  | .issue p => issuePacket p s.counted
  | .read idx => hostRead idx s

end Sys2Proof.Machine
end

