-- ==== Sys2Proof/Machine/Step.lean ====
section
/-! DEFINITION. One step: the host's next interaction, from beginning to end (R45, R48). -/

namespace Sys2Proof.Machine

/-- The host's next interaction; with none left the core is idle and keeps all its state (R112, R114,
DEDUCED, safe: entry 2). -/
def step (s : State) : Host.Outcome State Fault Refusal :=
  match s.script with
  | [] => .next s
  | a :: rest => hostAct a { s with script := rest }

/-- `s` with the packet whose bits are `w` as the host's next interaction. The core fetches nothing (R20), so a
packet is placed where the step takes its next command from: at the head of the host's script (DESIGN CHOICE,
safe: entry 1). -/
def State.withFetchWord (s : State) (nbits w : Nat) : State :=
  { s with script := .issue (packetOfTableWord nbits w) :: s.script }

end Sys2Proof.Machine
end

