-- ==== Sys2Proof/Machine/Assembler.lean ====
section
/-! DEFINITION. The assembly syntax of 30_encoding.md (R61, R62, R63): byte expressions, lines and what each
line makes the host do, and the reading of a line's text. -/

namespace Sys2Proof.Machine

/-- A `<bytes>` operand (R61). -/
inductive BytesExpr where
  /-- `x"hh hh ..."`: the bytes in message order. -/
  | hex (bs : List Byte)
  /-- `zeros(n)`. -/
  | zeros (n : Nat)
  /-- `seq(n, s)`. -/
  | seq (n s : Nat)
  /-- Two operands joined by `++`. -/
  | append (x y : BytesExpr)
deriving DecidableEq, Repr

/-- `seq(n, s)`: the n bytes `(s + i) mod 256` for i = 0 .. n − 1 (R61). -/
def seqBytes (n s : Nat) : List Byte := (List.range n).map fun i => BitVec.ofNat 8 (s + i)

/-- The bytes an operand stands for (R61). -/
def bytesOf : BytesExpr → List Byte
  | .hex bs => bs
  | .zeros n => zeros n
  | .seq n s => seqBytes n s
  | .append x y => bytesOf x ++ bytesOf y

/-- The registers `READ` names (R30, R61). -/
inductive RegName where
  | status
  | rH1
  | rH2
  | ctxLen
deriving DecidableEq, Repr

/-- The index of a named register (R30). -/
def regIndexOf : RegName → RegIndex
  | .status => 0x0
  | .rH1 => 0x1
  | .rH2 => 0x2
  | .ctxLen => 0x3

/-- One line of assembly (R61, R62). -/
inductive AsmLine where
  | init (seed1 seed2 : Word)
  | update (msg : BytesExpr)
  | final
  | hash128 (msg : BytesExpr) (seed1 seed2 : Word)
  | hash64 (msg : BytesExpr)
  | hash32 (msg : BytesExpr)
  /-- A host register read, not a command. -/
  | read (reg : RegName)
  /-- The pseudo-instruction HASHSTREAM. -/
  | hashStream (msg : BytesExpr) (seed1 seed2 : Word)
deriving DecidableEq, Repr

/-- What the host does for a line: one packet per command, ignored operands encoded as 0 (R61), one register
read for `READ`, and for HASHSTREAM the packets of INIT, UPDATE and FINAL (R62). -/
def assemble : AsmLine → List HostAction
  | .init s1 s2 => [.issue (encode (.init s1 s2))]
  | .update m => [.issue (encode (.update (bytesOf m)))]
  | .final => [.issue (encode .final)]
  | .hash128 m s1 s2 => [.issue (encode (.hash128 (bytesOf m) s1 s2))]
  | .hash64 m => [.issue (encode (.hash64 (bytesOf m)))]
  | .hash32 m => [.issue (encode (.hash32 (bytesOf m)))]
  | .read r => [.read (regIndexOf r)]
  | .hashStream m s1 s2 =>
    [.issue (encode (.init s1 s2)), .issue (encode (.update (bytesOf m))), .issue (encode .final)]

/-! The text of a line. R61 gives the forms; that blanks may stand between tokens and that `;` opens a comment
are DESIGN CHOICES, safe (entry 15); the numerals of `zeros` and `seq` are entry 19's. -/

/-- A token of a line. -/
inductive AsmToken where
  | word (cs : List Char)
  | number (n : Nat)
  | hex (bs : List Byte)
  | lparen
  | rparen
  | comma
  | join
deriving DecidableEq, Repr

/-- The value of a hexadecimal digit: its place among the sixteen, in either case (entry 15). -/
def hexDigit? (c : Char) : Option Nat :=
  ("0123456789ABCDEF".toList.idxOf? c).or ("0123456789abcdef".toList.idxOf? c)

/-- The value of a numeral in base `base`, its digits read after the value `acc`. -/
def digits? (base : Nat) (cs : List Char) (acc : Nat) : Option Nat :=
  match cs with
  | [] => some acc
  | c :: rest =>
    match hexDigit? c with
    | some d => if d < base then digits? base rest (base * acc + d) else none
    | none => none

/-- A word of letters, digits and `_` as a token: a number when it begins with a digit (decimal, or hexadecimal
after `0x`), else a name (R61). -/
def wordToken? (cs : List Char) : Option AsmToken :=
  match cs with
  | '0' :: 'x' :: d :: rest => (digits? 16 (d :: rest) 0).map .number
  | c :: rest => if c.isDigit then (digits? 10 (c :: rest) 0).map .number else some (.word (c :: rest))
  | [] => none

/-- The bytes of the hexadecimal text up to the closing quote, and what follows it; blanks may stand between
bytes. -/
def hexText? (cs : List Char) (acc : List Byte) : Option (List Byte × List Char) :=
  match cs with
  | '"' :: rest => some (acc.reverse, rest)
  | ' ' :: rest => hexText? rest acc
  | c :: c' :: rest =>
    match hexDigit? c, hexDigit? c' with
    | some hi, some lo => hexText? rest (BitVec.ofNat 8 (16 * hi + lo) :: acc)
    | _, _ => none
  | _ => none

/-- Whether a character may stand in a name or a number. -/
def isWordChar (c : Char) : Bool := c.isAlphanum || c == '_'

/-- The tokens of a line's text, with at most `fuel` of them. -/
def tokens? (fuel : Nat) (cs : List Char) : Option (List AsmToken) :=
  match fuel with
  | 0 => none
  | fuel + 1 =>
    match cs with
    | [] => some []
    | ';' :: _ => some []
    | ' ' :: rest => tokens? fuel rest
    | '(' :: rest => (tokens? fuel rest).map (.lparen :: ·)
    | ')' :: rest => (tokens? fuel rest).map (.rparen :: ·)
    | ',' :: rest => (tokens? fuel rest).map (.comma :: ·)
    | '+' :: '+' :: rest => (tokens? fuel rest).map (.join :: ·)
    | 'x' :: '"' :: rest =>
      match hexText? rest [] with
      | some (bs, rest) => (tokens? fuel rest).map (.hex bs :: ·)
      | none => none
    | c :: rest =>
      let word := (c :: rest).takeWhile isWordChar
      match wordToken? word, tokens? fuel ((c :: rest).dropWhile isWordChar) with
      | some t, some ts => some (t :: ts)
      | _, _ => none

/-- One byte expression without `++`, and the tokens after it (R61). That `n` and `s` of `zeros(n)` and `seq(n, s)`
are numerals in the two forms of a `<u64>`, with no bound, is a DESIGN CHOICE, safe (entry 19): R61 gives neither
their form nor their range. -/
def bytesTerm? (ts : List AsmToken) : Option (BytesExpr × List AsmToken) :=
  match ts with
  | .hex bs :: rest => some (.hex bs, rest)
  | .word w :: .lparen :: .number n :: .rparen :: rest =>
    if w = ['z', 'e', 'r', 'o', 's'] then some (.zeros n, rest) else none
  | .word w :: .lparen :: .number n :: .comma :: .number s :: .rparen :: rest =>
    if w = ['s', 'e', 'q'] then some (.seq n s, rest) else none
  | _ => none

/-- A `<bytes>` operand, and the tokens after it (R61); at most `fuel` joins. -/
def bytesExpr? (fuel : Nat) (ts : List AsmToken) : Option (BytesExpr × List AsmToken) :=
  match fuel with
  | 0 => none
  | fuel + 1 =>
    match bytesTerm? ts with
    | some (x, .join :: rest) =>
      match bytesExpr? fuel rest with
      | some (y, rest) => some (.append x y, rest)
      | none => none
    | r => r

/-- A `<u64>` literal: below 2^64 (R61). -/
def u64? (n : Nat) : Option Word := if n < 2 ^ 64 then some (BitVec.ofNat 64 n) else none

/-- `<u64>, <u64>` at the end of a line. -/
def seeds? (ts : List AsmToken) : Option (Word × Word) :=
  match ts with
  | [.number n, .comma, .number n'] =>
    match u64? n, u64? n' with
    | some s1, some s2 => some (s1, s2)
    | _, _ => none
  | _ => none

/-- A `<bytes>` operand that ends the line. -/
def onlyBytes? (ts : List AsmToken) : Option BytesExpr :=
  match bytesExpr? ts.length ts with
  | some (x, []) => some x
  | _ => none

/-- `<bytes>, <u64>, <u64>` at the end of a line. -/
def bytesAndSeeds? (ts : List AsmToken) : Option (BytesExpr × Word × Word) :=
  match bytesExpr? ts.length ts with
  | some (x, .comma :: rest) => (seeds? rest).map (x, ·)
  | _ => none

/-- The register a `READ` line names. -/
def regName? (ts : List AsmToken) : Option RegName :=
  match ts with
  | [.word w] =>
    if w = ['S', 'T', 'A', 'T', 'U', 'S'] then some .status
    else if w = ['R', '_', 'H', '1'] then some .rH1
    else if w = ['R', '_', 'H', '2'] then some .rH2
    else if w = ['C', 'T', 'X', '_', 'L', 'E', 'N'] then some .ctxLen
    else none
  | _ => none

/-- The line whose mnemonic is `w` and whose operands are `ts` (R61, R62). -/
def lineOf? (w : List Char) (ts : List AsmToken) : Option AsmLine :=
  if w = ['I', 'N', 'I', 'T'] then (seeds? ts).map fun p => .init p.1 p.2
  else if w = ['U', 'P', 'D', 'A', 'T', 'E'] then (onlyBytes? ts).map .update
  else if w = ['F', 'I', 'N', 'A', 'L'] then (if ts = [] then some .final else none)
  else if w = ['H', 'A', 'S', 'H', '1', '2', '8'] then
    (bytesAndSeeds? ts).map fun p => .hash128 p.1 p.2.1 p.2.2
  else if w = ['H', 'A', 'S', 'H', '6', '4'] then (onlyBytes? ts).map .hash64
  else if w = ['H', 'A', 'S', 'H', '3', '2'] then (onlyBytes? ts).map .hash32
  else if w = ['R', 'E', 'A', 'D'] then (regName? ts).map .read
  else if w = ['H', 'A', 'S', 'H', 'S', 'T', 'R', 'E', 'A', 'M'] then
    (bytesAndSeeds? ts).map fun p => .hashStream p.1 p.2.1 p.2.2
  else none

/-- The assembly line a text stands for, if it is one (R61). -/
def parseLine? (cs : List Char) : Option AsmLine :=
  match tokens? (cs.length + 1) cs with
  | some (.word w :: ts) => lineOf? w ts
  | _ => none

end Sys2Proof.Machine
end

