-- ==== Sys2Proof/Machine/WrittenOut.lean ====
section
/-! DEFINITION. The four rounds as the spec writes them out step by step (the second forms of R67, R71, R75 and
R76), one line per step, for statements that the loops do the same. -/

namespace Sys2Proof.Machine

/-- Mix written out, `h0 .. h11` for h[0] .. h[11] and `d0 .. d11` for the block's words (R67). -/
def mixWrittenOut (h d : Vector Word 12) : Vector Word 12 :=
  let h0 := wordAt h 0; let h1 := wordAt h 1; let h2 := wordAt h 2; let h3 := wordAt h 3
  let h4 := wordAt h 4; let h5 := wordAt h 5; let h6 := wordAt h 6; let h7 := wordAt h 7
  let h8 := wordAt h 8; let h9 := wordAt h 9; let h10 := wordAt h 10; let h11 := wordAt h 11
  let d0 := wordAt d 0; let d1 := wordAt d 1; let d2 := wordAt d 2; let d3 := wordAt d 3
  let d4 := wordAt d 4; let d5 := wordAt d 5; let d6 := wordAt d 6; let d7 := wordAt d 7
  let d8 := wordAt d 8; let d9 := wordAt d 9; let d10 := wordAt d 10; let d11 := wordAt d 11
  let h0 := h0 + d0; let h2 := h2 ^^^ h10; let h11 := h11 ^^^ h0; let h0 := rotl64 h0 11; let h11 := h11 + h1
  let h1 := h1 + d1; let h3 := h3 ^^^ h11; let h0 := h0 ^^^ h1; let h1 := rotl64 h1 32; let h0 := h0 + h2
  let h2 := h2 + d2; let h4 := h4 ^^^ h0; let h1 := h1 ^^^ h2; let h2 := rotl64 h2 43; let h1 := h1 + h3
  let h3 := h3 + d3; let h5 := h5 ^^^ h1; let h2 := h2 ^^^ h3; let h3 := rotl64 h3 31; let h2 := h2 + h4
  let h4 := h4 + d4; let h6 := h6 ^^^ h2; let h3 := h3 ^^^ h4; let h4 := rotl64 h4 17; let h3 := h3 + h5
  let h5 := h5 + d5; let h7 := h7 ^^^ h3; let h4 := h4 ^^^ h5; let h5 := rotl64 h5 28; let h4 := h4 + h6
  let h6 := h6 + d6; let h8 := h8 ^^^ h4; let h5 := h5 ^^^ h6; let h6 := rotl64 h6 39; let h5 := h5 + h7
  let h7 := h7 + d7; let h9 := h9 ^^^ h5; let h6 := h6 ^^^ h7; let h7 := rotl64 h7 57; let h6 := h6 + h8
  let h8 := h8 + d8; let h10 := h10 ^^^ h6; let h7 := h7 ^^^ h8; let h8 := rotl64 h8 55; let h7 := h7 + h9
  let h9 := h9 + d9; let h11 := h11 ^^^ h7; let h8 := h8 ^^^ h9; let h9 := rotl64 h9 54; let h8 := h8 + h10
  let h10 := h10 + d10; let h0 := h0 ^^^ h8; let h9 := h9 ^^^ h10; let h10 := rotl64 h10 22; let h9 := h9 + h11
  let h11 := h11 + d11; let h1 := h1 ^^^ h9; let h10 := h10 ^^^ h11; let h11 := rotl64 h11 46; let h10 := h10 + h0
  #v[h0, h1, h2, h3, h4, h5, h6, h7, h8, h9, h10, h11]

/-- EndPartial written out (R71). -/
def endPartialWrittenOut (h : Vector Word 12) : Vector Word 12 :=
  let h0 := wordAt h 0; let h1 := wordAt h 1; let h2 := wordAt h 2; let h3 := wordAt h 3
  let h4 := wordAt h 4; let h5 := wordAt h 5; let h6 := wordAt h 6; let h7 := wordAt h 7
  let h8 := wordAt h 8; let h9 := wordAt h 9; let h10 := wordAt h 10; let h11 := wordAt h 11
  let h11 := h11 + h1; let h2 := h2 ^^^ h11; let h1 := rotl64 h1 44
  let h0 := h0 + h2; let h3 := h3 ^^^ h0; let h2 := rotl64 h2 15
  let h1 := h1 + h3; let h4 := h4 ^^^ h1; let h3 := rotl64 h3 34
  let h2 := h2 + h4; let h5 := h5 ^^^ h2; let h4 := rotl64 h4 21
  let h3 := h3 + h5; let h6 := h6 ^^^ h3; let h5 := rotl64 h5 38
  let h4 := h4 + h6; let h7 := h7 ^^^ h4; let h6 := rotl64 h6 33
  let h5 := h5 + h7; let h8 := h8 ^^^ h5; let h7 := rotl64 h7 10
  let h6 := h6 + h8; let h9 := h9 ^^^ h6; let h8 := rotl64 h8 13
  let h7 := h7 + h9; let h10 := h10 ^^^ h7; let h9 := rotl64 h9 38
  let h8 := h8 + h10; let h11 := h11 ^^^ h8; let h10 := rotl64 h10 53
  let h9 := h9 + h11; let h0 := h0 ^^^ h9; let h11 := rotl64 h11 42
  let h10 := h10 + h0; let h1 := h1 ^^^ h10; let h0 := rotl64 h0 54
  #v[h0, h1, h2, h3, h4, h5, h6, h7, h8, h9, h10, h11]

/-- ShortMix written out, `h0, h1, h2, h3` for a, b, c, d (R75). -/
def shortMixWrittenOut (h : Vector Word 4) : Vector Word 4 :=
  let h0 := wordAt h 0; let h1 := wordAt h 1; let h2 := wordAt h 2; let h3 := wordAt h 3
  let h2 := rotl64 h2 50; let h2 := h2 + h3; let h0 := h0 ^^^ h2
  let h3 := rotl64 h3 52; let h3 := h3 + h0; let h1 := h1 ^^^ h3
  let h0 := rotl64 h0 30; let h0 := h0 + h1; let h2 := h2 ^^^ h0
  let h1 := rotl64 h1 41; let h1 := h1 + h2; let h3 := h3 ^^^ h1
  let h2 := rotl64 h2 54; let h2 := h2 + h3; let h0 := h0 ^^^ h2
  let h3 := rotl64 h3 48; let h3 := h3 + h0; let h1 := h1 ^^^ h3
  let h0 := rotl64 h0 38; let h0 := h0 + h1; let h2 := h2 ^^^ h0
  let h1 := rotl64 h1 37; let h1 := h1 + h2; let h3 := h3 ^^^ h1
  let h2 := rotl64 h2 62; let h2 := h2 + h3; let h0 := h0 ^^^ h2
  let h3 := rotl64 h3 34; let h3 := h3 + h0; let h1 := h1 ^^^ h3
  let h0 := rotl64 h0 5; let h0 := h0 + h1; let h2 := h2 ^^^ h0
  let h1 := rotl64 h1 36; let h1 := h1 + h2; let h3 := h3 ^^^ h1
  #v[h0, h1, h2, h3]

/-- ShortEnd written out, 11 steps (R76). -/
def shortEndWrittenOut (h : Vector Word 4) : Vector Word 4 :=
  let h0 := wordAt h 0; let h1 := wordAt h 1; let h2 := wordAt h 2; let h3 := wordAt h 3
  let h3 := h3 ^^^ h2; let h2 := rotl64 h2 15; let h3 := h3 + h2
  let h0 := h0 ^^^ h3; let h3 := rotl64 h3 52; let h0 := h0 + h3
  let h1 := h1 ^^^ h0; let h0 := rotl64 h0 26; let h1 := h1 + h0
  let h2 := h2 ^^^ h1; let h1 := rotl64 h1 51; let h2 := h2 + h1
  let h3 := h3 ^^^ h2; let h2 := rotl64 h2 28; let h3 := h3 + h2
  let h0 := h0 ^^^ h3; let h3 := rotl64 h3 9; let h0 := h0 + h3
  let h1 := h1 ^^^ h0; let h0 := rotl64 h0 47; let h1 := h1 + h0
  let h2 := h2 ^^^ h1; let h1 := rotl64 h1 54; let h2 := h2 + h1
  let h3 := h3 ^^^ h2; let h2 := rotl64 h2 32; let h3 := h3 + h2
  let h0 := h0 ^^^ h3; let h3 := rotl64 h3 25; let h0 := h0 + h3
  let h1 := h1 ^^^ h0; let h0 := rotl64 h0 63; let h1 := h1 + h0
  #v[h0, h1, h2, h3]

end Sys2Proof.Machine
end

