-- ==== Sys2Proof/Safety.lean ====
section
/-! DEFINITION. The notions the claims are stated in: the streaming context and its invariant (R28), what a host
can ever see, the invariant of the whole machine, and the commands' frames. -/

namespace Sys2Proof.Machine

/-- The next state of an outcome, if it is one. -/
def nextState? (o : Host.Outcome State Fault Refusal) : Option State :=
  match o with
  | .next t => some t
  | .fault _ => none
  | .refused _ => none

/-- The streaming context of `t` is that of `s`: CTX_VALID, LEN, CNT, BUF and S (R16). -/
structure SameContext (s t : State) : Prop where
  ctxValid : t.ctxValid = s.ctxValid
  len : t.len = s.len
  cnt : t.cnt = s.cnt
  buf : ∀ a, t.buf.read a = s.buf.read a
  words : t.S = s.S

/-- The result registers of `t` are those of `s` (R33). -/
structure SameResults (s t : State) : Prop where
  resH1 : t.resH1 = s.resH1
  resH2 : t.resH2 = s.resH2
  resultValid : t.resultValid = s.resultValid

/-- The model's own fields of `t` are those of `s`: a meaning changes none of them. -/
structure SameHost (s t : State) : Prop where
  script : t.script = s.script
  reads : t.reads = s.reads
  issued : t.issued = s.issued

/-- R28: `s` holds the stream that INIT opened with seeds `s1`, `s2` and whose successful fragments
concatenate to `msg`. -/
structure StreamHolds (s1 s2 : Word) (msg : List Byte) (s : State) : Prop where
  ctxValid : s.ctxValid = true
  /-- Item 1. -/
  len : s.len.toNat = msg.length
  /-- Item 3, and the seeds of R17's short form. -/
  shortForm : msg.length < 192 →
    s.cnt.val = msg.length ∧ s.buf.readRange 0 s.cnt.val = msg ∧ wordAt s.S 0 = s1 ∧ wordAt s.S 1 = s2
  /-- Item 4, with `LEN − CNT >= 96`. -/
  longForm : 192 ≤ msg.length →
    96 ≤ msg.length - s.cnt.val ∧ (msg.length - s.cnt.val) % 96 = 0 ∧
      s.buf.readRange 0 s.cnt.val = slice msg (msg.length - s.cnt.val) msg.length ∧
      s.S = mixBlocks (mixInit s1 s2) msg ((msg.length - s.cnt.val) / 96)

/-- What every state the core can be in satisfies, whatever the stream: BUF in canonical form, items 3 and 4 of
R28 as far as they are about counts, no stream before INIT (R24, R36), and a last failure recorded (R99). -/
structure State.Inv (s : State) : Prop where
  bufWf : s.buf.wf
  shortForm : s.len.toNat < 192 → s.cnt.val = s.len.toNat
  longForm : 192 ≤ s.len.toNat → (s.len.toNat - s.cnt.val) % 96 = 0
  noContext : s.ctxValid = false → s.len = 0
  failure : s.err ≠ .ok → s.errSeen = true ∧ s.resultValid = false

/-- `s` and `t` agree on everything that holds an architectural value (R17, R27, R33, R36): they may differ in
S[2..11] in short form, in BUF[CNT..192), in BUF and S without a context, and in the result registers while
RESULT_VALID = 0. -/
structure ArchEq (s t : State) : Prop where
  ctxValid : t.ctxValid = s.ctxValid
  len : t.len = s.len
  cnt : t.cnt = s.cnt
  resultValid : t.resultValid = s.resultValid
  err : t.err = s.err
  errSeen : t.errSeen = s.errSeen
  results : s.resultValid = true → t.resH1 = s.resH1 ∧ t.resH2 = s.resH2
  seeds : s.ctxValid = true → s.len.toNat < 192 → wordAt t.S 0 = wordAt s.S 0 ∧ wordAt t.S 1 = wordAt s.S 1
  mixState : s.ctxValid = true → 192 ≤ s.len.toNat → t.S = s.S
  buffered : s.ctxValid = true → ∀ a, a < s.cnt.val → t.buf.read a = s.buf.read a
  script : t.script = s.script
  reads : t.reads = s.reads
  issued : t.issued = s.issued

/-- The host's actions for a whole stream: INIT, one UPDATE per fragment, FINAL (R95). -/
def streamScript (s1 s2 : Word) (fragments : List (List Byte)) : List HostAction :=
  .issue (encode (.init s1 s2)) :: fragments.map (fun f => .issue (encode (.update f))) ++
    [.issue (encode .final)]

/-- A one-shot command (R89). -/
def isOneShot : Instr → Bool
  | .hash128 _ _ _ => true
  | .hash64 _ => true
  | .hash32 _ => true
  | .init _ _ => false
  | .update _ => false
  | .final => false

/-- The action is a reset, alone or while a command executes (R113). -/
def isReset : HostAction → Bool
  | .reset => true
  | .resetDuring _ => true
  | .issue _ => false
  | .read _ => false

/-- The bytes of BUF that a successful UPDATE of fragment `f` writes: `BUF[CNT..CNT+n)` where it fits, else
`BUF[0..r)` with `r = (CNT + n) mod 96` (R92). -/
def updateStores (f : List Byte) (s : State) (a : Nat) : Prop :=
  if s.cnt.val + f.length < 192 then s.cnt.val ≤ a ∧ a < s.cnt.val + f.length
  else a < (s.cnt.val + f.length) % 96

end Sys2Proof.Machine
end

