-- ==== Sys2Proof/Certificates/Slice0/Obligations.lean ====
section
/-! DEFINITION. The statements for the provers, in the order of spec/: encoding, the six commands, errors, the
streaming context, the registers, the datapath, the whole machine, the assembly syntax. Where a statement speaks of
`step` or `core.run`, the host's sequence of interactions is handed to the machine as its script, a DESIGN CHOICE of
the model (entry 1). The rotation schedules and SC_CONST are the spec's own reading of the published algorithm (D1,
entry 13). -/

open Sys2Proof Sys2Proof.Machine

/-! ## Encoding and the step -/

/-- R55 (and R56, R59): which words are commands, by their full word, and the operands each one is given; every
other word is none. -/
def Obligations.DecodeReadsEveryWordAsTheMapSays : Prop :=
  ∀ p : Packet,
    (decode p).command? =
      if p.cmd = 0x00000001 then some (.init p.seed1 p.seed2)
      else if p.cmd = 0x00000002 then some (.update p.msg)
      else if p.cmd = 0x00000003 then some .final
      else if p.cmd = 0x00000004 then some (.hash128 p.msg p.seed1 p.seed2)
      else if p.cmd = 0x00000005 then some (.hash64 p.msg)
      else if p.cmd = 0x00000006 then some (.hash32 p.msg)
      else none

/-- R53, R55, R56: a packet decodes to a command exactly when it carries that command's one word and, in the
fields the command reads, its operands; the fields the command ignores may hold any value. -/
def Obligations.PacketStandsForOneCommandOnly : Prop :=
  ∀ (p : Packet) (i : Instr),
    decode p = .command i ↔
      p.cmd = cmdWord i ∧
        match i with
        | .init s1 s2 => p.seed1 = s1 ∧ p.seed2 = s2
        | .update m => p.msg = m
        | .final => True
        | .hash128 m s1 s2 => p.msg = m ∧ p.seed1 = s1 ∧ p.seed2 = s2
        | .hash64 m => p.msg = m
        | .hash32 m => p.msg = m

/-- R55, R61: every well-formed command is read back from the packet that encodes it, and that packet exists. -/
def Obligations.DecodeUndoesEncode : Prop :=
  ∀ i : Instr, i.wf = true → decode (encode i) = .command i ∧ (encode i).wf

/-- Words of the opcode map and of the table of 95_test_vectors.md 2.7, as they stand. -/
def Obligations.WrittenOutWordsDecode : Prop :=
  decodeTableWord 32 0x00000001 = some (.init 0 0) ∧ decodeTableWord 32 0x00000002 = some (.update []) ∧
  decodeTableWord 32 0x00000003 = some .final ∧ decodeTableWord 32 0x00000004 = some (.hash128 [] 0 0) ∧
  decodeTableWord 32 0x00000005 = some (.hash64 []) ∧ decodeTableWord 32 0x00000006 = some (.hash32 []) ∧
  decodeTableWord 32 0x00000000 = none ∧ decodeTableWord 32 0x00000007 = none ∧
  decodeTableWord 32 0x0000000F = none ∧ decodeTableWord 32 0x00000010 = none ∧
  decodeTableWord 32 0x80000004 = none ∧ decodeTableWord 32 0xFFFFFFFF = none

/-- A step whose next host interaction is a packet that decodes to `i` is `exec i`, with that interaction taken
off the host's script (entry 1, a DESIGN CHOICE) and counted (entry 6, a DESIGN CHOICE); the same for the word
`withFetchWord` places. A packet with an illegal word fails in the same step (R58). -/
def Obligations.StepRunsTheDecodedCommand : Prop :=
  (∀ (s : State) (p : Packet) (rest : List HostAction) (i : Instr),
    s.script = .issue p :: rest → decode p = .command i →
      step s = exec i { s with script := rest, issued := s.issued + 1 }) ∧
  (∀ (s : State) (nbits w : Nat) (i : Instr),
    decodeTableWord nbits w = some i → step (s.withFetchWord nbits w) = exec i { s with issued := s.issued + 1 }) ∧
  (∀ (s : State) (p : Packet) (rest : List HostAction) (why : Illegal),
    s.script = .issue p :: rest → decode p = .illegal why →
      step s = raiseCommandError .illegalCommand { s with script := rest, issued := s.issued + 1 })

/-- R58: a word is illegal when RSV ≠ 0, or OPC is 0x0 or 0x7 to 0xF; it fails with ILLEGAL_COMMAND and changes
nothing but the three error fields; every other word is one of the six, and none is both. -/
def Obligations.IllegalWordFailsWithIllegalCommand : Prop :=
  (∀ w : CmdWord, (rsv w ≠ 0 ∨ opc w = 0 ∨ 7 ≤ (opc w).toNat) ↔ ¬(1 ≤ w.toNat ∧ w.toNat ≤ 6)) ∧
  (∀ (s : State) (p : Packet), rsv p.cmd ≠ 0 ∨ opc p.cmd = 0 ∨ 7 ≤ (opc p.cmd).toNat →
    issuePacket p s = .next { s with err := .illegalCommand, errSeen := true, resultValid := false })

/-! ## The six commands -/

/-- R91: INIT, in every state. -/
def Obligations.InitStartsANewStream : Prop :=
  (∀ (s1 s2 : Word) (m : List Byte), decode ⟨0x00000001, s1, s2, m⟩ = .command (.init s1 s2)) ∧
  (∀ (s1 s2 : Word) (s : State),
    exec (.init s1 s2) s =
      .next { s with len := 0, cnt := 0, S := (s.S.set 0 s1).set 1 s2, ctxValid := true, err := .ok }) ∧
  (∀ (s1 s2 : Word) (s t : State), exec (.init s1 s2) s = .next t → t.ctxLong = false) ∧
  (∃ t, exec (.init 1 2) State.reset = .next t ∧ t.status = 0x00000001 ∧ t.len = 0)

/-- R92: UPDATE, its two errors in their order, the stash and the mixing branch, in every state, and the worked
example. -/
def Obligations.UpdateAppendsAFragment : Prop :=
  (∀ (s1 s2 : Word) (f : List Byte), decode ⟨0x00000002, s1, s2, f⟩ = .command (.update f)) ∧
  (∀ (f : List Byte) (s : State), s.ctxValid = false →
    exec (.update f) s = .next { s with err := .noContext, errSeen := true, resultValid := false }) ∧
  (∀ (f : List Byte) (s : State), s.ctxValid = true → s.len.toNat + f.length > 2 ^ 64 - 1 →
    exec (.update f) s = .next { s with err := .lengthOverflow, errSeen := true, resultValid := false }) ∧
  (∀ (f : List Byte) (s : State), s.ctxValid = true → s.len.toNat + f.length ≤ 2 ^ 64 - 1 →
    ∀ fits : s.cnt.val + f.length < 192,
      exec (.update f) s =
        .next { s with
          buf := s.buf.writeRange s.cnt.val f
          cnt := ⟨s.cnt.val + f.length, fits⟩
          len := s.len + BitVec.ofNat 64 f.length
          err := .ok }) ∧
  (∀ (f t : List Byte) (s : State), s.ctxValid = true → s.len.toNat + f.length ≤ 2 ^ 64 - 1 →
    192 ≤ s.cnt.val + f.length → t = s.buf.readRange 0 s.cnt.val ++ f →
      exec (.update f) s =
        .next { s with
          buf := s.buf.writeRange 0 (slice t (96 * (t.length / 96)) t.length)
          cnt := Fin.ofNat 192 (t.length % 96)
          S := mixBlocks (if s.len.toNat < 192 then mixInit (wordAt s.S 0) (wordAt s.S 1) else s.S) t (t.length / 96)
          len := s.len + BitVec.ofNat 64 f.length
          err := .ok }) ∧
  (∃ t u v, exec (.init 0 0) State.reset = .next t ∧
    exec (.update (seqBytes 100 128)) t = .next u ∧ u.cnt = 100 ∧ u.len = 100 ∧ u.status = 0x00006401 ∧
    exec (.update (seqBytes 100 228)) u = .next v ∧ v.cnt = 8 ∧ v.len = 200 ∧ v.status = 0x00000803)

/-- The corner cases R92 lists: an empty fragment changes nothing but ERR; after the mixing branch CNT <= 95;
`CNT = 191, n = 1` mixes exactly two blocks and leaves CNT = 0. -/
def Obligations.UpdateCornerCases : Prop :=
  (∀ s : State, s.ctxValid = true → exec (.update []) s = .next { s with err := .ok }) ∧
  (∀ (f : List Byte) (s t : State), exec (.update f) s = .next t → t.err = .ok →
    192 ≤ s.cnt.val + f.length → t.cnt.val ≤ 95 ∧ t.cnt.val = (s.cnt.val + f.length) % 96) ∧
  (∀ (b : Byte) (s t : State), exec (.update [b]) s = .next t → t.err = .ok → s.cnt = 191 →
    t.cnt = 0 ∧
      t.S = mix (mix s.mixStart (s.buf.readRange 0 96)) (s.buf.readRange 96 95 ++ [b]))

/-- R93: FINAL, in every state, and the worked example. -/
def Obligations.FinalWritesTheDigestOfTheStream : Prop :=
  (∀ (s1 s2 : Word) (m : List Byte), decode ⟨0x00000003, s1, s2, m⟩ = .command .final) ∧
  (∀ s : State, s.ctxValid = false →
    exec .final s = .next { s with err := .noContext, errSeen := true, resultValid := false }) ∧
  (∀ s : State, s.ctxValid = true → s.len.toNat < 192 →
    exec .final s =
      .next { s with
        resH1 := (short (s.buf.readRange 0 s.len.toNat) (wordAt s.S 0) (wordAt s.S 1)).1
        resH2 := (short (s.buf.readRange 0 s.len.toNat) (wordAt s.S 0) (wordAt s.S 1)).2
        resultValid := true, err := .ok }) ∧
  (∀ (s : State) (h : Vector Word 12), s.ctxValid = true → 192 ≤ s.len.toNat → s.cnt.val < 96 →
    h = endLong s.S (tailBlock (s.buf.readRange 0 s.cnt.val)) →
      exec .final s = .next { s with resH1 := wordAt h 0, resH2 := wordAt h 1, resultValid := true, err := .ok }) ∧
  (∀ (s : State) (h : Vector Word 12), s.ctxValid = true → 192 ≤ s.len.toNat → 96 ≤ s.cnt.val →
    h = endLong (mix s.S (s.buf.readRange 0 96)) (tailBlock (s.buf.readRange 96 (s.cnt.val - 96))) →
      exec .final s = .next { s with resH1 := wordAt h 0, resH2 := wordAt h 1, resultValid := true, err := .ok }) ∧
  (∃ t u, exec (.init 0 0) State.reset = .next t ∧ exec .final t = .next u ∧
    u.resH1 = 0x232706FC6BF50919 ∧ u.resH2 = 0x8B72EE65B4E851C7)

/-- From R93 (R94, which the spec marks as derived): a second FINAL changes nothing at all; FINAL does not read
what it writes; with any packets but INIT and UPDATE between them, two FINALs write the same digest; and an UPDATE
after FINAL continues the stream as if it had not been issued. -/
def Obligations.FinalIsIdempotent : Prop :=
  (∀ s : State, s.ctxValid = true →
    ∃ t, exec .final s = .next t ∧ exec .final t = .next t ∧ SameContext s t ∧ t.errSeen = s.errSeen) ∧
  (∀ (s t : State) (h1 h2 : Word) (v : Bool) (e : ErrCode), s.ctxValid = true → exec .final s = .next t →
    exec .final { s with resH1 := h1, resH2 := h2, resultValid := v, err := e } = .next t) ∧
  (∀ (s t : State) (between : List Packet), s.ctxValid = true → exec .final s = .next t →
    (∀ p ∈ between, p.cmd ≠ 0x00000001 ∧ p.cmd ≠ 0x00000002) →
      ∃ u v, Sys2Proof.core.run between.length { t with script := between.map .issue } = .next u ∧
        exec .final u = .next v ∧ v.resH1 = t.resH1 ∧ v.resH2 = t.resH2) ∧
  (∀ (f : List Byte) (s t u : State), s.ctxValid = true → exec .final s = .next t → exec (.update f) t = .next u →
    ∃ v, exec (.update f) s = .next v ∧ SameContext v u ∧ u.err = v.err)

/-- R86: HASH128, in every state, and the worked example. -/
def Obligations.Hash128WritesTheOneShotDigest : Prop :=
  (∀ (s1 s2 : Word) (m : List Byte), decode ⟨0x00000004, s1, s2, m⟩ = .command (.hash128 m s1 s2)) ∧
  (∀ (m : List Byte) (s1 s2 : Word) (s : State),
    exec (.hash128 m s1 s2) s =
      .next { s with
        resH1 := (hash128 m s1 s2).1, resH2 := (hash128 m s1 s2).2, resultValid := true, err := .ok }) ∧
  hash128 [] 0 0 = (0x232706FC6BF50919, 0x8B72EE65B4E851C7)

/-- R87: HASH64, in every state, and the worked example under the example instantiation of the seeds. -/
def Obligations.Hash64WritesTheFirstWordUnderTheDefaultSeeds : Prop :=
  (∀ (s1 s2 : Word) (m : List Byte), decode ⟨0x00000005, s1, s2, m⟩ = .command (.hash64 m)) ∧
  (∀ (m : List Byte) (s : State),
    exec (.hash64 m) s =
      .next { s with
        resH1 := (hash128 m Config.defaultSeed1 Config.defaultSeed2).1, resH2 := 0, resultValid := true, err := .ok }) ∧
  (∃ t, hash64With 0 0 [] State.reset = .next t ∧ t.resH1 = 0x232706FC6BF50919 ∧ t.resH2 = 0) ∧
  (∀ (m : List Byte) (s : State), exec (.hash64 m) s = hash64With Config.defaultSeed1 Config.defaultSeed2 m s)

/-- R88: HASH32, in every state, and the worked example under the example instantiation of the seeds. -/
def Obligations.Hash32WritesTheLowWordUnderTheDefaultSeeds : Prop :=
  (∀ (s1 s2 : Word) (m : List Byte), decode ⟨0x00000006, s1, s2, m⟩ = .command (.hash32 m)) ∧
  (∀ (m : List Byte) (s : State),
    exec (.hash32 m) s =
      .next { s with
        resH1 := ((hash128 m Config.defaultSeed1 Config.defaultSeed2).1.extractLsb' 0 32).setWidth 64
        resH2 := 0, resultValid := true, err := .ok }) ∧
  (∃ t, hash32With 0 0 [] State.reset = .next t ∧ t.resH1 = 0x000000006BF50919 ∧ t.resH2 = 0) ∧
  (∀ (m : List Byte) (s : State), exec (.hash32 m) s = hash32With Config.defaultSeed1 Config.defaultSeed2 m s)

/-- R90: the projections are those of HASH128 under the default seeds, whatever states they are issued in. -/
def Obligations.ProjectionsAgreeWithHash128 : Prop :=
  ∀ (m : List Byte) (s s' s'' : State), ∃ t u v,
    exec (.hash128 m Config.defaultSeed1 Config.defaultSeed2) s = .next t ∧ exec (.hash64 m) s' = .next u ∧
      exec (.hash32 m) s'' = .next v ∧ u.resH1 = t.resH1 ∧ v.resH1 = (u.resH1.extractLsb' 0 32).setWidth 64

/-- R83: the path is chosen by the total length alone; 191 bytes take the short path, 192 the long one. -/
def Obligations.Hash128DispatchesOnLength : Prop :=
  ∀ (m : List Byte) (s1 s2 : Word),
    (m.length ≤ 191 → hash128 m s1 s2 = short m s1 s2) ∧ (192 ≤ m.length → hash128 m s1 s2 = longHash m s1 s2)

/-! ## Errors -/

/-- R97, R99: a failed command changes the three error fields and nothing else, and ERR_SEEN stays set until a
reset. -/
def Obligations.FailedCommandChangesOnlyTheErrorFields : Prop :=
  (∀ (code : ErrCode) (s : State),
    raiseCommandError code s = .next { s with err := code, errSeen := true, resultValid := false }) ∧
  (∀ (p : Packet) (s t : State), issuePacket p s = .next t → t.err ≠ .ok →
    t = { s with err := t.err, errSeen := true, resultValid := false }) ∧
  (∀ s t : State, step s = .next t → s.errSeen = true →
    (∀ a rest, s.script = a :: rest → isReset a = false) → t.errSeen = true)

/-- R98, R101: which packet fails with which code, and that the first check that applies is the one reported;
every packet completes. -/
def Obligations.ChecksAreReportedInOrder : Prop :=
  (ErrCode.ok.code = 0 ∧ ErrCode.illegalCommand.code = 1 ∧ ErrCode.noContext.code = 2 ∧
    ErrCode.lengthOverflow.code = 3) ∧
  ∀ (p : Packet) (s : State), ∃ t, issuePacket p s = .next t ∧
    t.err =
      if ¬(1 ≤ p.cmd.toNat ∧ p.cmd.toNat ≤ 6) then .illegalCommand
      else if (p.cmd = 0x00000002 ∨ p.cmd = 0x00000003) ∧ s.ctxValid = false then .noContext
      else if p.cmd = 0x00000002 ∧ 2 ^ 64 - 1 < s.len.toNat + p.msg.length then .lengthOverflow
      else .ok

/-- R100: a command that does not fail writes ERR = 0 and leaves ERR_SEEN alone, so ERR is the outcome of the
last command and ERR_SEEN, 0 at reset, becomes 1 exactly when one fails. -/
def Obligations.ErrSeenRecordsEveryFailure : Prop :=
  State.reset.errSeen = false ∧ (∀ s : State, succeed s = .next { s with err := .ok }) ∧
  ∀ (p : Packet) (s t : State), issuePacket p s = .next t → t.errSeen = (s.errSeen || decide (t.err ≠ .ok))

/-! ## The streaming context -/

/-- R24: INIT sets CTX_VALID, reset clears it, no other command changes it, and while it is 0 UPDATE and FINAL
fail with NO_CONTEXT. -/
def Obligations.ContextLastsFromInitToReset : Prop :=
  (∀ (p : Packet) (s t : State), issuePacket p s = .next t →
    t.ctxValid = (s.ctxValid || decide (p.cmd = 0x00000001))) ∧
  (∀ s : State, ∃ t, hostAct .reset s = .next t ∧ t.ctxValid = false) ∧
  (∀ (p : Packet) (s t : State), issuePacket p s = .next t → p.cmd = 0x00000002 ∨ p.cmd = 0x00000003 →
    s.ctxValid = false → t.err = .noContext ∧ t.errSeen = true)

/-- R25: INIT writes 0 to LEN, a successful UPDATE adds the fragment length exactly, nothing else changes it, and
an UPDATE that would pass 2^64 − 1 fails: LEN never wraps. -/
def Obligations.LengthCounterNeverWraps : Prop :=
  ∀ (p : Packet) (s t : State), issuePacket p s = .next t →
    (t.len.toNat =
      if p.cmd = 0x00000001 then 0
      else if p.cmd = 0x00000002 ∧ t.err = .ok then s.len.toNat + p.msg.length
      else s.len.toNat) ∧
    (p.cmd = 0x00000002 → s.ctxValid = true → 2 ^ 64 - 1 < s.len.toNat + p.msg.length → t.err = .lengthOverflow)

/-- R28: INIT establishes the invariants of the streaming context for the empty message, and every packet that
is no INIT keeps them, a successful UPDATE for the message extended by its fragment. -/
def Obligations.StreamInvariantIsKept : Prop :=
  (∀ (s1 s2 : Word) (s t : State), exec (.init s1 s2) s = .next t → StreamHolds s1 s2 [] t) ∧
  (∀ (s1 s2 : Word) (msg : List Byte) (p : Packet) (s t : State), s.buf.wf → StreamHolds s1 s2 msg s →
    issuePacket p s = .next t → p.cmd ≠ 0x00000001 →
      StreamHolds s1 s2 (if p.cmd = 0x00000002 ∧ t.err = .ok then msg ++ p.msg else msg) t)

/-- R29: the form is LEN >= 192; promotion happens on the first successful UPDATE with `CNT + n >= 192`, and only
INIT (or reset) leads back to short form. -/
def Obligations.PromotionHappensAtMostOnce : Prop :=
  (∀ s : State, s.ctxLong = true ↔ s.ctxValid = true ∧ 192 ≤ s.len.toNat) ∧
  (∀ (p : Packet) (s t : State), issuePacket p s = .next t → p.cmd ≠ 0x00000001 → s.ctxLong = true →
    t.ctxLong = true) ∧
  (∀ (f : List Byte) (s t : State), s.Inv → s.ctxLong = false → exec (.update f) s = .next t → t.err = .ok →
    (t.ctxLong = true ↔ 192 ≤ s.cnt.val + f.length))

/-- The binding correctness contract, which the spec states in R95 and marks as its own inference ("[derived: from
10_state.md rule R28, 42_long_finalizer.md rule R73, 43_short_path.md rule R81 and rules R91, R92 and R93]"):
whatever state the core is in, the packets INIT, one UPDATE per fragment, FINAL leave the one-shot digest of the
concatenated fragments, with no failure, for every number of fragments whose lengths sum to at most 2^64 − 1. That
the packets are handed to the machine as the host's script is the model's choice (entry 1). -/
def Obligations.StreamingEqualsOneShot : Prop :=
  ∀ (s1 s2 : Word) (fragments : List (List Byte)) (s : State), s.buf.wf →
    fragments.flatten.length ≤ 2 ^ 64 - 1 →
      ∃ t : State,
        Sys2Proof.core.run (fragments.length + 2) { s with script := streamScript s1 s2 fragments } = .next t ∧
        t.resH1 = (hash128 fragments.flatten s1 s2).1 ∧ t.resH2 = (hash128 fragments.flatten s1 s2).2 ∧
        t.resultValid = true ∧ t.err = .ok ∧ t.errSeen = s.errSeen ∧ t.script = []

/-- R89: a one-shot command neither reads nor writes the streaming context, and it does not change the stream's
digest, before or after the next fragment. -/
def Obligations.OneShotCommandsLeaveTheStreamAlone : Prop :=
  ∀ (i : Instr) (s t : State), isOneShot i = true → exec i s = .next t →
    SameContext s t ∧ streamDigest t = streamDigest s ∧
      (∀ (f : List Byte) (u v : State), exec (.update f) s = .next u → exec (.update f) t = .next v →
        SameContext u v ∧ streamDigest v = streamDigest u) ∧
      ∀ s' : State, ∃ t', exec i s' = .next t' ∧ SameResults t t'

/-! ## Registers -/

/-- R33: who writes the result registers, who invalidates them, and what a host read of them is: their bits while
RESULT_VALID = 1; else the recorded fault of R33 with the unspecified value the hardware returns, of which this says
nothing (a free value, entry 6), and the machine goes on. -/
def Obligations.ResultRegistersFollowTheirRule : Prop :=
  (∀ (p : Packet) (s t : State), issuePacket p s = .next t →
    (t.err ≠ .ok → t.resultValid = false) ∧
    (t.err = .ok → 3 ≤ p.cmd.toNat → t.resultValid = true) ∧
    (t.err = .ok → p.cmd.toNat ≤ 2 → SameResults s t)) ∧
  (∀ s : State, s.resultValid = false →
    ∃ v1 v2 : Word,
      hostRead 0x1 s = .next { s with reads := s.reads ++ [.unwritten v1] } ∧
      hostRead 0x2 s = .next { s with reads := s.reads ++ [.unwritten v2] }) ∧
  (∀ s : State, s.resultValid = true →
    hostRead 0x1 s = .next { s with reads := s.reads ++ [.bits64 s.resH1] } ∧
    hostRead 0x2 s = .next { s with reads := s.reads ++ [.bits64 s.resH2] })

/-- R31: every field of STATUS stands at its place, whatever the state; STATUS reads 0 after reset. -/
def Obligations.StatusHoldsEveryFieldAtItsPlace : Prop :=
  (∀ s : State,
    s.status.extractLsb' 0 1 = BitVec.ofBool s.ctxValid ∧
    s.status.extractLsb' 1 1 = BitVec.ofBool (s.ctxValid && decide (192 ≤ s.len.toNat)) ∧
    s.status.extractLsb' 2 1 = BitVec.ofBool s.resultValid ∧
    s.status.extractLsb' 3 1 = BitVec.ofBool s.errSeen ∧
    s.status.extractLsb' 4 4 = s.err.code ∧ s.err.code.toNat ≤ 3 ∧
    (s.status.extractLsb' 8 8).toNat = s.cnt.val ∧
    s.status.extractLsb' 16 16 = 0) ∧
  State.reset.status = 0x00000000

/-- R30, R33, R34: the register map. While RESULT_VALID = 0 the result registers read as the recorded fault of R33,
with a free value (entry 6). -/
def Obligations.RegisterMapIsRead : Prop :=
  ∀ s : State,
    s.readReg 0x0 = .bits32 s.status ∧
    s.readReg 0x1 =
      (if s.resultValid then .bits64 s.resH1 else .unwritten (Config.unwrittenResult 0x1 s.issued)) ∧
    s.readReg 0x2 =
      (if s.resultValid then .bits64 s.resH2 else .unwritten (Config.unwrittenResult 0x2 s.issued)) ∧
    s.readReg 0x3 = .bits64 s.len ∧
    ∀ idx : RegIndex, 4 ≤ idx.toNat → s.readReg idx = .bits64 0

/-- R44: a host register read, in every state, changes nothing but the host's notes, so every register reads as
before, and two reads with no command between them return the same value, also where that value is unspecified. -/
def Obligations.RegisterReadsHaveNoSideEffect : Prop :=
  (∀ (idx : RegIndex) (s : State), ∃ t, hostRead idx s = .next t ∧
    t = { s with reads := s.reads ++ [s.readReg idx] } ∧ ∀ j : RegIndex, t.readReg j = s.readReg j) ∧
  (∀ (idx : RegIndex) (s : State) (rest : List HostAction), s.script = .read idx :: .read idx :: rest →
    Sys2Proof.core.run 2 s =
      .next { s with script := rest, reads := s.reads ++ [s.readReg idx, s.readReg idx] })

/-! ## The datapath -/

/-- R65: bit j of x lands at bit (j + k) mod 64, every amount of the four schedules is between 5 and 63, and the
two worked examples. -/
def Obligations.RotationMovesEveryBit : Prop :=
  (∀ (x : Word) (k j : Nat), 1 ≤ k → k ≤ 63 → j < 64 →
    (rotl64 x k).getLsbD ((j + k) % 64) = x.getLsbD j) ∧
  (∀ k ∈ mixRot ++ endRot ++ shortMixRot ++ shortEndRot, 5 ≤ k ∧ k ≤ 63) ∧
  rotl64 0x8000000000000001 11 = 0x0000000000000C00 ∧ rotl64 0x0123456789ABCDEF 32 = 0x89ABCDEF01234567

/-- R38, R40: byte `B[off+j]` is bits [8j+7:8j] of the word or partial word read at `off`, and the bits above the
`n` bytes are 0. -/
def Obligations.WordsAreAssembledLittleEndian : Prop :=
  ∀ (b : List Byte) (off n : Nat), 1 ≤ n → n ≤ 8 → off + n ≤ b.length →
    (∀ (j : Nat) (h : off + j < b.length), j < n → (memRead b off n).extractLsb' (8 * j) 8 = b[off + j]) ∧
    (∀ i, 8 * n ≤ i → (memRead b off n).getLsbD i = false)

/-- R66: BlockWords reads twelve 8-byte words, and the worked example. -/
def Obligations.BlockWordsReadsTwelveWords : Prop :=
  (∀ (b : List Byte) (i : Nat), i < 12 → wordAt (blockWords b) i = memRead b (8 * i) 8) ∧
  wordAt (blockWords (seqBytes 96 128)) 0 = 0x8786858483828180 ∧
  wordAt (blockWords (seqBytes 96 128)) 11 = 0xDFDEDDDCDBDAD9D8

/-- R67: the loop of Mix is the twelve steps written out, and the worked example. -/
def Obligations.MixIsTheStepsWrittenOut : Prop :=
  (∀ (h : Vector Word 12) (b : List Byte), mix h b = mixWrittenOut h (blockWords b)) ∧
  wordAt (mix (mixInit 0 0) (zeros 96)) 0 = 0x3A25E7500925E5D1 ∧
  wordAt (mix (mixInit 0 0) (zeros 96)) 1 = 0x44ABB6D47567AD57

/-- R71: the loop of EndPartial is the twelve steps written out, and the worked example. -/
def Obligations.EndPartialIsTheStepsWrittenOut : Prop :=
  (∀ h : Vector Word 12, endPartial h = endPartialWrittenOut h) ∧
  wordAt (endPartial (mixInit 0 0)) 0 = 0xC6F08D4BC6F08D43 ∧
  wordAt (endPartial (mixInit 0 0)) 2 = 0x0000000000000000

/-- R75: the loop of ShortMix is the twelve steps written out, and the worked example. -/
def Obligations.ShortMixIsTheStepsWrittenOut : Prop :=
  (∀ h : Vector Word 4, shortMix h = shortMixWrittenOut h) ∧
  shortMix #v[0, 0, scConst, scConst] =
    #v[0x56C20290417AE44B, 0x4D1DFB96D5786C85, 0x49300AED3A83DB78, 0xBDCB39E4491D0F1E]

/-- R76: the loop of ShortEnd is the eleven steps written out, and the worked example. -/
def Obligations.ShortEndIsTheStepsWrittenOut : Prop :=
  (∀ h : Vector Word 4, shortEnd h = shortEndWrittenOut h) ∧
  shortEnd #v[0, 0, scConst, scConst] =
    #v[0x83378872BA0024A2, 0x9BC5306A41902928, 0x02EBC117D353EE11, 0xCA46010388FE84AB]

/-- From R67, R71, R75 and R76: no round loses state. For a fixed block each of them maps different states to
different states. -/
def Obligations.RoundsLoseNoState : Prop :=
  (∀ (h h' : Vector Word 12) (b : List Byte), mix h b = mix h' b → h = h') ∧
  (∀ h h' : Vector Word 12, endPartial h = endPartial h' → h = h') ∧
  (∀ h h' : Vector Word 4, shortMix h = shortMix h' → h = h') ∧
  (∀ h h' : Vector Word 4, shortEnd h = shortEnd h' → h = h')

/-- R19, R23: the initial ShortState and the hardwired constant; and the MixState of R18. -/
def Obligations.InitialStatesReplicateTheSeeds : Prop :=
  scConst = 0xDEADBEEFDEADBEEF ∧
  (∀ s1 s2 : Word, shortInit s1 s2 = #v[s1, s2, scConst, scConst]) ∧
  (∀ (s1 s2 : Word) (k : Nat), k < 4 →
    wordAt (mixInit s1 s2) (3 * k) = s1 ∧ wordAt (mixInit s1 s2) (3 * k + 1) = s2 ∧
      wordAt (mixInit s1 s2) (3 * k + 2) = scConst)

/-- R70: the tail block is 96 bytes, the data, then zeros, then the length tag; two different tails of at most 95
bytes give different tail blocks; and the worked example. -/
def Obligations.TailBlockIsTaggedByItsLength : Prop :=
  (∀ t : List Byte, t.length ≤ 95 →
    (tailBlock t).length = 96 ∧
    (∀ (j : Nat) (h : j < t.length), (tailBlock t)[j]? = some t[j]) ∧
    (∀ j : Nat, t.length ≤ j → j < 95 → (tailBlock t)[j]? = some 0) ∧
    (tailBlock t)[95]? = some (BitVec.ofNat 8 t.length) ∧ (BitVec.ofNat 8 t.length).toNat = t.length) ∧
  (∀ t u : List Byte, t.length ≤ 95 → u.length ≤ 95 → tailBlock t = tailBlock u → t = u) ∧
  tailBlock [0x01, 0x02, 0x03] = [0x01, 0x02, 0x03] ++ zeros 92 ++ [0x03]

/-- R72: End adds the twelve words of the tail block, once, then runs three EndPartial rounds; a zero tail block
is absorbed without effect; and the worked example. -/
def Obligations.EndAbsorbsTheTailBlockOnce : Prop :=
  (∀ (h : Vector Word 12) (tb : List Byte),
    endLong h tb = endPartial (endPartial (endPartial (Vector.zipWith (· + ·) h (blockWords tb))))) ∧
  (∀ h : Vector Word 12, endLong h (zeros 96) = endPartial (endPartial (endPartial h))) ∧
  wordAt (endLong (mixInit 0 0) (zeros 96)) 0 = 0xEAD03033DCF83712 ∧
  wordAt (endLong (mixInit 0 0) (zeros 96)) 1 = 0xB919A80440B73F4E

/-- R73, R69: for a message given as its complete 96-byte blocks and a rest of at most 95 bytes, LongHash mixes
the blocks once each, in order, and gives the rest to End; and the worked example. -/
def Obligations.LongHashMixesEveryBlockInOrder : Prop :=
  (∀ (blocks : List (List Byte)) (rest : List Byte) (s1 s2 : Word), (∀ b ∈ blocks, b.length = 96) →
    rest.length ≤ 95 →
      longHash (blocks.flatten ++ rest) s1 s2 =
        (wordAt (endLong (blocks.foldl mix (mixInit s1 s2)) (tailBlock rest)) 0,
          wordAt (endLong (blocks.foldl mix (mixInit s1 s2)) (tailBlock rest)) 1)) ∧
  longHash (seqBytes 192 128) 0 0 = (0x246ED6EE77E012BD, 0xD3AEED226839E477)

/-- R79: the message length lands in the top byte of the addend, no bit of it is lost, and only d changes. -/
def Obligations.LengthIsInjectedIntoTheTopByteOfD : Prop :=
  ∀ (n : Nat) (a b c d : Word), n < 192 →
    injectLength n #v[a, b, c, d] = #v[a, b, c, d + (BitVec.ofNat 64 n <<< 56)] ∧
      (BitVec.ofNat 64 n <<< 56 : Word).toNat = n * 2 ^ 56

/-- R80: the tail table, every row. -/
def Obligations.TailTableIsFollowed : Prop :=
  ∀ (a b c d : Word) (t : List Byte), t.length ≤ 15 →
    absorbTail #v[a, b, c, d] t =
      if t.length = 0 then #v[a, b, c + scConst, d + scConst]
      else if t.length ≤ 8 then #v[a, b, c + le t, d]
      else #v[a, b, c + le (t.take 8), d + le (t.drop 8)]

/-- R81, with the absorptions of R77 and R78: for a message of fewer than 192 bytes given as its complete 32-byte
groups, then 0 or 16 bytes of pair, then a tail of at most 15 bytes, Short absorbs them in that order and ends with
ShortEnd; and the worked example. -/
def Obligations.ShortAbsorbsGroupsPairAndTail : Prop :=
  (∀ (groups : List (List Byte)) (pair tail : List Byte) (s1 s2 : Word) (h : Vector Word 4),
    (∀ g ∈ groups, g.length = 32) → (pair = [] ∨ pair.length = 16) → tail.length ≤ 15 →
    (groups.flatten ++ pair ++ tail).length < 192 →
    h = shortEnd (absorbTail (injectLength (groups.flatten ++ pair ++ tail).length
      (if pair = [] then groups.foldl (fun h g => absorbGroup g h 0) (shortInit s1 s2)
        else absorbPair pair (groups.foldl (fun h g => absorbGroup g h 0) (shortInit s1 s2)) 0)) tail) →
      short (groups.flatten ++ pair ++ tail) s1 s2 = (wordAt h 0, wordAt h 1)) ∧
  short [] 0 0 = (0x232706FC6BF50919, 0x8B72EE65B4E851C7)

/-- R77, R78: what a group and a pair add, and where. -/
def Obligations.GroupAndPairAbsorptionAddWords : Prop :=
  ∀ (m : List Byte) (p : Nat) (a b c d a' b' c' d' : Word),
    shortMix #v[a, b, c + memRead m p 8, d + memRead m (p + 8) 8] = #v[a', b', c', d'] →
      absorbPair m #v[a, b, c, d] p = #v[a', b', c', d'] ∧
      absorbGroup m #v[a, b, c, d] p = #v[a' + memRead m (p + 16) 8, b' + memRead m (p + 24) 8, c', d']

/-! ## The whole machine -/

/-- R113, R36: what a reset leaves, alone or while a command executes, as far as the spec gives it; the state
after reset is such a state. -/
def Obligations.ResetLeavesTheResetValues : Prop :=
  (∀ (s : State) (a : HostAction) (rest : List HostAction), s.script = a :: rest → isReset a = true →
    ∃ t, step s = .next t ∧ t.ctxValid = false ∧ t.len = 0 ∧ t.cnt = 0 ∧ t.resultValid = false ∧ t.err = .ok ∧
      t.errSeen = false ∧ t.status = 0x00000000 ∧ t.readReg 0x3 = .bits64 0 ∧ t.script = rest ∧
      t.reads = s.reads) ∧
  (State.reset.ctxValid = false ∧ State.reset.len = 0 ∧ State.reset.cnt = 0 ∧ State.reset.resultValid = false ∧
    State.reset.err = .ok ∧ State.reset.errSeen = false ∧ State.reset.status = 0x00000000 ∧
    State.reset.readReg 0x3 = .bits64 0)

/-- R112, R114: with nothing to do the core is idle and keeps all its state. -/
def Obligations.IdleCoreKeepsItsState : Prop := ∀ s : State, s.script = [] → step s = .next s

/-- R123: nothing the host can send is refused and nothing stops the core: every packet is completed, and every step
with an interaction pending, a register read of a result that holds no value among them (R33, entry 6), answers a next
state with that interaction done. -/
def Obligations.NothingTheHostSendsIsRefused : Prop :=
  (∀ (p : Packet) (s : State), ∃ t, issuePacket p s = .next t) ∧
  (∀ (s : State) (a : HostAction) (rest : List HostAction), s.script = a :: rest →
    ∃ t, step s = .next t ∧ t.script = rest)

/-- The invariant `State.Inv` (R28 items 2 to 4 as far as they are about counts, R24, R99, and BUF's canonical
form) holds at reset. -/
def Obligations.InvariantHoldsAtReset : Prop := State.reset.Inv

/-- The invariant `State.Inv` is kept by every step, from every state that has it. -/
def Obligations.InvariantIsKeptByEveryStep : Prop :=
  ∀ s t : State, s.Inv → step s = .next t → t.Inv

/-- From R17, R27, R33 and R36: nothing the core does or shows depends on what holds no architectural value
(S[2..11] in short form, BUF[CNT..192), BUF and S without a context, the result registers while RESULT_VALID = 0).
Two states that agree on the rest read alike and step alike, to next states that agree again. So no value the model
chose for them (entries 3, 4, 5 and 10) can be observed. -/
def Obligations.StateWithoutValueIsNeverObserved : Prop :=
  ∀ s t : State, s.Inv → t.Inv → ArchEq s t →
    (∀ idx : RegIndex, t.readReg idx = s.readReg idx) ∧
    ∃ s' t', step s = .next s' ∧ step t = .next t' ∧ ArchEq s' t'

/-- The frame of HASH128, HASH64, HASH32 and FINAL: where they succeed they change RES_H1, RES_H2, RESULT_VALID
and ERR only; every byte of BUF reads as before. -/
def Obligations.ResultCommandsChangeOnlyTheResult : Prop :=
  ∀ (i : Instr) (s t : State), isOneShot i = true ∨ i = .final → exec i s = .next t → t.err = .ok →
    SameContext s t ∧ SameHost s t ∧ t.errSeen = s.errSeen ∧ t.resultValid = true

/-- The frame of INIT: S[2..11], every byte of BUF, the results and ERR_SEEN keep their values. -/
def Obligations.InitKeepsBufferResultsAndOtherWords : Prop :=
  ∀ (s1 s2 : Word) (s t : State), exec (.init s1 s2) s = .next t →
    (∀ k : Nat, 2 ≤ k → k < 12 → wordAt t.S k = wordAt s.S k) ∧ (∀ a : Nat, t.buf.read a = s.buf.read a) ∧
      SameResults s t ∧ SameHost s t ∧ t.errSeen = s.errSeen

/-- The frame of a successful UPDATE: every byte of BUF outside those it stores (`updateStores`: from CNT where
the fragment fits, else from 0) reads as before; S changes only in the mixing branch; CTX_VALID, the results and
ERR_SEEN keep their values. -/
def Obligations.UpdateStoresOnlyItsBytes : Prop :=
  ∀ (f : List Byte) (s t : State), exec (.update f) s = .next t → t.err = .ok →
    (∀ a : Nat, ¬updateStores f s a → t.buf.read a = s.buf.read a) ∧
    (s.cnt.val + f.length < 192 → t.S = s.S) ∧ t.ctxValid = s.ctxValid ∧ SameResults s t ∧ SameHost s t ∧
      t.errSeen = s.errSeen

/-- From R27, R92: the bytes a successful UPDATE stores are the fragment, read back at CNT where it fits, else the
last `(CNT + n) mod 96` bytes of `BUF[0..CNT) ++ F`, read back at 0. -/
def Obligations.UpdateStoresTheUnabsorbedBytes : Prop :=
  ∀ (f : List Byte) (s t : State), s.buf.wf → exec (.update f) s = .next t → t.err = .ok →
    (s.cnt.val + f.length < 192 →
      t.buf.readRange s.cnt.val f.length = f ∧ t.buf.readRange 0 t.cnt.val = s.buf.readRange 0 s.cnt.val ++ f) ∧
    (192 ≤ s.cnt.val + f.length →
      t.buf.readRange 0 t.cnt.val =
        (s.buf.readRange 0 s.cnt.val ++ f).drop (s.cnt.val + f.length - (s.cnt.val + f.length) % 96))

/-! ## Assembly syntax -/

/-- R61, R63: the example lines give the host's packets of R63. -/
def Obligations.ExampleLinesAssembleAsListed : Prop :=
  assemble (.init 0x1 0x2) = [.issue ⟨0x00000001, 0x0000000000000001, 0x0000000000000002, []⟩] ∧
  assemble (.update (.hex [0x61, 0x62, 0x63])) = [.issue ⟨0x00000002, 0, 0, [0x61, 0x62, 0x63]⟩] ∧
  assemble .final = [.issue ⟨0x00000003, 0, 0, []⟩] ∧
  assemble (.hash128 (.seq 100 128) 0 0) = [.issue ⟨0x00000004, 0, 0, seqBytes 100 128⟩] ∧
  (seqBytes 100 128).take 2 = [0x80, 0x81] ∧ (seqBytes 100 128)[99]? = some 0xE3 ∧
  assemble (.hash64 (.hex [])) = [.issue ⟨0x00000005, 0, 0, []⟩] ∧
  assemble (.hash32 (.hex [0x00])) = [.issue ⟨0x00000006, 0, 0, [0x00]⟩]

/-- R62: HASHSTREAM expands to INIT, UPDATE and FINAL; run from any state, it leaves in the result registers
what HASH128 on the same operands leaves, and, unlike HASH128, a new streaming context of that message. -/
def Obligations.HashStreamEqualsHash128 : Prop :=
  ∀ (m : BytesExpr) (s1 s2 : Word) (s : State), s.buf.wf → (bytesOf m).length ≤ 2 ^ 64 - 1 →
    assemble (.hashStream m s1 s2) = assemble (.init s1 s2) ++ assemble (.update m) ++ assemble .final ∧
    ∃ t u : State,
      Sys2Proof.core.run 3 { s with script := assemble (.hashStream m s1 s2) } = .next t ∧
      Sys2Proof.core.run 1 { s with script := assemble (.hash128 m s1 s2) } = .next u ∧
      SameResults u t ∧ t.resultValid = true ∧ StreamHolds s1 s2 (bytesOf m) t ∧ SameContext s u
end

