-- ==== Sys2Proof/Laws/Bytes.lean ====
section
/-! SUPPORT. Slices, blocks and the run of Mix over the blocks of a message: how each of them sees a message that
is cut in two. -/

namespace Sys2Proof.Machine

@[simp] theorem length_slice (m : List Byte) (i j : Nat) : (slice m i j).length = min (j - i) (m.length - i) := by
  simp [slice]

/-- What lies beyond `j` does not matter to `M[i..j)`. -/
theorem slice_append_left (m m' : List Byte) {i j : Nat} (hij : i ≤ j) (hj : j ≤ m.length) :
    slice (m ++ m') i j = slice m i j := by
  unfold slice
  rw [List.drop_append_of_le_length (by omega), List.take_append_of_le_length (by simp; omega)]

/-- A slice up to the end is what remains after dropping. -/
theorem slice_to_end (m : List Byte) (i : Nat) : slice m i m.length = m.drop i := by
  unfold slice
  exact List.take_of_length_le (by simp)

/-- A slice of what remains after dropping is a slice further on. -/
theorem slice_drop (m : List Byte) (a i j : Nat) : slice (m.drop a) i j = slice m (a + i) (a + j) := by
  unfold slice
  rw [List.drop_drop, show a + j - (a + i) = j - i by omega]

theorem block_append_left (m m' : List Byte) (k : Nat) (h : 96 * k + 96 ≤ m.length) :
    block (m ++ m') k = block m k := slice_append_left m m' (by omega) h

theorem block_drop (m : List Byte) (a k : Nat) : block (m.drop (96 * a)) k = block m (a + k) := by
  unfold block
  rw [slice_drop, show 96 * a + 96 * k = 96 * (a + k) by omega, show 96 * a + (96 * k + 96) = 96 * (a + k) + 96 by omega]

@[simp] theorem mixBlocks_zero (h : Vector Word 12) (m : List Byte) : mixBlocks h m 0 = h := rfl

/-- One more block is one more Mix (R69). -/
theorem mixBlocks_succ (h : Vector Word 12) (m : List Byte) (n : Nat) :
    mixBlocks h m (n + 1) = mix (mixBlocks h m n) (block m n) := by
  simp [mixBlocks, List.range_succ]

/-- Bytes after the first `n` blocks do not enter their mixing. -/
theorem mixBlocks_append_left (h : Vector Word 12) (m m' : List Byte) (n : Nat) (hn : 96 * n ≤ m.length) :
    mixBlocks h (m ++ m') n = mixBlocks h m n := by
  induction n with
  | zero => rw [mixBlocks_zero, mixBlocks_zero]
  | succ n ih => rw [mixBlocks_succ, mixBlocks_succ, ih (by omega), block_append_left m m' n (by omega)]

/-- Mixing `a + b` blocks is mixing `a` blocks and then `b` blocks of the rest. -/
theorem mixBlocks_add (h : Vector Word 12) (m : List Byte) (a b : Nat) :
    mixBlocks h m (a + b) = mixBlocks (mixBlocks h m a) (m.drop (96 * a)) b := by
  induction b with
  | zero => rw [mixBlocks_zero, Nat.add_zero]
  | succ b ih => rw [← Nat.add_assoc, mixBlocks_succ, mixBlocks_succ, ih, block_drop]

@[simp] theorem length_zeros (n : Nat) : (zeros n).length = n := by simp [zeros]

@[simp] theorem length_tailBlock (t : List Byte) (h : t.length ≤ 95) : (tailBlock t).length = 96 := by
  simp [tailBlock]; omega

end Sys2Proof.Machine
end

