-- ==== Sys2Proof/Laws/State.lean ====
section
/-! SUPPORT. One lemma per field per named update of State, true by rfl: no later proof unfolds a record update. -/

namespace Sys2Proof.Machine

/-! `State.writeResult` (R33). -/

@[simp] theorem State.writeResult_ctxValid (s : State) (h1 h2 : Word) : (s.writeResult h1 h2).ctxValid = s.ctxValid := rfl
@[simp] theorem State.writeResult_len (s : State) (h1 h2 : Word) : (s.writeResult h1 h2).len = s.len := rfl
@[simp] theorem State.writeResult_cnt (s : State) (h1 h2 : Word) : (s.writeResult h1 h2).cnt = s.cnt := rfl
@[simp] theorem State.writeResult_buf (s : State) (h1 h2 : Word) : (s.writeResult h1 h2).buf = s.buf := rfl
@[simp] theorem State.writeResult_S (s : State) (h1 h2 : Word) : (s.writeResult h1 h2).S = s.S := rfl
@[simp] theorem State.writeResult_resH1 (s : State) (h1 h2 : Word) : (s.writeResult h1 h2).resH1 = h1 := rfl
@[simp] theorem State.writeResult_resH2 (s : State) (h1 h2 : Word) : (s.writeResult h1 h2).resH2 = h2 := rfl
@[simp] theorem State.writeResult_resultValid (s : State) (h1 h2 : Word) : (s.writeResult h1 h2).resultValid = true := rfl
@[simp] theorem State.writeResult_err (s : State) (h1 h2 : Word) : (s.writeResult h1 h2).err = s.err := rfl
@[simp] theorem State.writeResult_errSeen (s : State) (h1 h2 : Word) : (s.writeResult h1 h2).errSeen = s.errSeen := rfl
@[simp] theorem State.writeResult_script (s : State) (h1 h2 : Word) : (s.writeResult h1 h2).script = s.script := rfl
@[simp] theorem State.writeResult_reads (s : State) (h1 h2 : Word) : (s.writeResult h1 h2).reads = s.reads := rfl
@[simp] theorem State.writeResult_issued (s : State) (h1 h2 : Word) : (s.writeResult h1 h2).issued = s.issued := rfl

/-! `State.failed` (R99). -/

@[simp] theorem State.failed_ctxValid (s : State) (code : ErrCode) : (s.failed code).ctxValid = s.ctxValid := rfl
@[simp] theorem State.failed_len (s : State) (code : ErrCode) : (s.failed code).len = s.len := rfl
@[simp] theorem State.failed_cnt (s : State) (code : ErrCode) : (s.failed code).cnt = s.cnt := rfl
@[simp] theorem State.failed_buf (s : State) (code : ErrCode) : (s.failed code).buf = s.buf := rfl
@[simp] theorem State.failed_S (s : State) (code : ErrCode) : (s.failed code).S = s.S := rfl
@[simp] theorem State.failed_resH1 (s : State) (code : ErrCode) : (s.failed code).resH1 = s.resH1 := rfl
@[simp] theorem State.failed_resH2 (s : State) (code : ErrCode) : (s.failed code).resH2 = s.resH2 := rfl
@[simp] theorem State.failed_resultValid (s : State) (code : ErrCode) : (s.failed code).resultValid = false := rfl
@[simp] theorem State.failed_err (s : State) (code : ErrCode) : (s.failed code).err = code := rfl
@[simp] theorem State.failed_errSeen (s : State) (code : ErrCode) : (s.failed code).errSeen = true := rfl
@[simp] theorem State.failed_script (s : State) (code : ErrCode) : (s.failed code).script = s.script := rfl
@[simp] theorem State.failed_reads (s : State) (code : ErrCode) : (s.failed code).reads = s.reads := rfl
@[simp] theorem State.failed_issued (s : State) (code : ErrCode) : (s.failed code).issued = s.issued := rfl

/-! `State.completed` (R100). -/

@[simp] theorem State.completed_ctxValid (s : State) : s.completed.ctxValid = s.ctxValid := rfl
@[simp] theorem State.completed_len (s : State) : s.completed.len = s.len := rfl
@[simp] theorem State.completed_cnt (s : State) : s.completed.cnt = s.cnt := rfl
@[simp] theorem State.completed_buf (s : State) : s.completed.buf = s.buf := rfl
@[simp] theorem State.completed_S (s : State) : s.completed.S = s.S := rfl
@[simp] theorem State.completed_resH1 (s : State) : s.completed.resH1 = s.resH1 := rfl
@[simp] theorem State.completed_resH2 (s : State) : s.completed.resH2 = s.resH2 := rfl
@[simp] theorem State.completed_resultValid (s : State) : s.completed.resultValid = s.resultValid := rfl
@[simp] theorem State.completed_err (s : State) : s.completed.err = .ok := rfl
@[simp] theorem State.completed_errSeen (s : State) : s.completed.errSeen = s.errSeen := rfl
@[simp] theorem State.completed_script (s : State) : s.completed.script = s.script := rfl
@[simp] theorem State.completed_reads (s : State) : s.completed.reads = s.reads := rfl
@[simp] theorem State.completed_issued (s : State) : s.completed.issued = s.issued := rfl

/-! `startStream` (R91). -/

@[simp] theorem startStream_ctxValid (s1 s2 : Word) (s : State) : (startStream s1 s2 s).ctxValid = true := rfl
@[simp] theorem startStream_len (s1 s2 : Word) (s : State) : (startStream s1 s2 s).len = 0 := rfl
@[simp] theorem startStream_cnt (s1 s2 : Word) (s : State) : (startStream s1 s2 s).cnt = 0 := rfl
@[simp] theorem startStream_buf (s1 s2 : Word) (s : State) : (startStream s1 s2 s).buf = s.buf := rfl
@[simp] theorem startStream_S (s1 s2 : Word) (s : State) : (startStream s1 s2 s).S = setWord (setWord s.S 0 s1) 1 s2 := rfl
@[simp] theorem startStream_resH1 (s1 s2 : Word) (s : State) : (startStream s1 s2 s).resH1 = s.resH1 := rfl
@[simp] theorem startStream_resH2 (s1 s2 : Word) (s : State) : (startStream s1 s2 s).resH2 = s.resH2 := rfl
@[simp] theorem startStream_resultValid (s1 s2 : Word) (s : State) : (startStream s1 s2 s).resultValid = s.resultValid := rfl
@[simp] theorem startStream_err (s1 s2 : Word) (s : State) : (startStream s1 s2 s).err = s.err := rfl
@[simp] theorem startStream_errSeen (s1 s2 : Word) (s : State) : (startStream s1 s2 s).errSeen = s.errSeen := rfl
@[simp] theorem startStream_script (s1 s2 : Word) (s : State) : (startStream s1 s2 s).script = s.script := rfl
@[simp] theorem startStream_reads (s1 s2 : Word) (s : State) : (startStream s1 s2 s).reads = s.reads := rfl
@[simp] theorem startStream_issued (s1 s2 : Word) (s : State) : (startStream s1 s2 s).issued = s.issued := rfl

/-! `stashFragment` (R92). -/

@[simp] theorem stashFragment_ctxValid (f : List Byte) (s : State) (h : s.cnt.val + f.length < 192) : (stashFragment f s h).ctxValid = s.ctxValid := rfl
@[simp] theorem stashFragment_len (f : List Byte) (s : State) (h : s.cnt.val + f.length < 192) : (stashFragment f s h).len = s.len + BitVec.ofNat 64 f.length := rfl
@[simp] theorem stashFragment_cnt (f : List Byte) (s : State) (h : s.cnt.val + f.length < 192) : (stashFragment f s h).cnt = ⟨s.cnt.val + f.length, h⟩ := rfl
@[simp] theorem stashFragment_buf (f : List Byte) (s : State) (h : s.cnt.val + f.length < 192) : (stashFragment f s h).buf = s.buf.writeRange s.cnt.val f := rfl
@[simp] theorem stashFragment_S (f : List Byte) (s : State) (h : s.cnt.val + f.length < 192) : (stashFragment f s h).S = s.S := rfl
@[simp] theorem stashFragment_resH1 (f : List Byte) (s : State) (h : s.cnt.val + f.length < 192) : (stashFragment f s h).resH1 = s.resH1 := rfl
@[simp] theorem stashFragment_resH2 (f : List Byte) (s : State) (h : s.cnt.val + f.length < 192) : (stashFragment f s h).resH2 = s.resH2 := rfl
@[simp] theorem stashFragment_resultValid (f : List Byte) (s : State) (h : s.cnt.val + f.length < 192) : (stashFragment f s h).resultValid = s.resultValid := rfl
@[simp] theorem stashFragment_err (f : List Byte) (s : State) (h : s.cnt.val + f.length < 192) : (stashFragment f s h).err = s.err := rfl
@[simp] theorem stashFragment_errSeen (f : List Byte) (s : State) (h : s.cnt.val + f.length < 192) : (stashFragment f s h).errSeen = s.errSeen := rfl
@[simp] theorem stashFragment_script (f : List Byte) (s : State) (h : s.cnt.val + f.length < 192) : (stashFragment f s h).script = s.script := rfl
@[simp] theorem stashFragment_reads (f : List Byte) (s : State) (h : s.cnt.val + f.length < 192) : (stashFragment f s h).reads = s.reads := rfl
@[simp] theorem stashFragment_issued (f : List Byte) (s : State) (h : s.cnt.val + f.length < 192) : (stashFragment f s h).issued = s.issued := rfl

/-! `mixFragment` (R92). -/

@[simp] theorem mixFragment_ctxValid (f : List Byte) (s : State) : (mixFragment f s).ctxValid = s.ctxValid := rfl
@[simp] theorem mixFragment_len (f : List Byte) (s : State) : (mixFragment f s).len = s.len + BitVec.ofNat 64 f.length := rfl
@[simp] theorem mixFragment_cnt (f : List Byte) (s : State) : (mixFragment f s).cnt = Fin.ofNat 192 ((s.joined f).length % 96) := rfl
@[simp] theorem mixFragment_buf (f : List Byte) (s : State) : (mixFragment f s).buf = s.buf.writeRange 0 (slice (s.joined f) (96 * ((s.joined f).length / 96)) (s.joined f).length) := rfl
@[simp] theorem mixFragment_S (f : List Byte) (s : State) : (mixFragment f s).S = mixBlocks s.mixStart (s.joined f) ((s.joined f).length / 96) := rfl
@[simp] theorem mixFragment_resH1 (f : List Byte) (s : State) : (mixFragment f s).resH1 = s.resH1 := rfl
@[simp] theorem mixFragment_resH2 (f : List Byte) (s : State) : (mixFragment f s).resH2 = s.resH2 := rfl
@[simp] theorem mixFragment_resultValid (f : List Byte) (s : State) : (mixFragment f s).resultValid = s.resultValid := rfl
@[simp] theorem mixFragment_err (f : List Byte) (s : State) : (mixFragment f s).err = s.err := rfl
@[simp] theorem mixFragment_errSeen (f : List Byte) (s : State) : (mixFragment f s).errSeen = s.errSeen := rfl
@[simp] theorem mixFragment_script (f : List Byte) (s : State) : (mixFragment f s).script = s.script := rfl
@[simp] theorem mixFragment_reads (f : List Byte) (s : State) : (mixFragment f s).reads = s.reads := rfl
@[simp] theorem mixFragment_issued (f : List Byte) (s : State) : (mixFragment f s).issued = s.issued := rfl

/-! `resetCore` (R113). -/

@[simp] theorem resetCore_ctxValid (s : State) : (resetCore s).ctxValid = false := rfl
@[simp] theorem resetCore_len (s : State) : (resetCore s).len = 0 := rfl
@[simp] theorem resetCore_cnt (s : State) : (resetCore s).cnt = 0 := rfl
@[simp] theorem resetCore_buf (s : State) : (resetCore s).buf = [] := rfl
@[simp] theorem resetCore_S (s : State) : (resetCore s).S = Vector.replicate 12 0 := rfl
@[simp] theorem resetCore_resH1 (s : State) : (resetCore s).resH1 = 0 := rfl
@[simp] theorem resetCore_resH2 (s : State) : (resetCore s).resH2 = 0 := rfl
@[simp] theorem resetCore_resultValid (s : State) : (resetCore s).resultValid = false := rfl
@[simp] theorem resetCore_err (s : State) : (resetCore s).err = .ok := rfl
@[simp] theorem resetCore_errSeen (s : State) : (resetCore s).errSeen = false := rfl
@[simp] theorem resetCore_script (s : State) : (resetCore s).script = s.script := rfl
@[simp] theorem resetCore_reads (s : State) : (resetCore s).reads = s.reads := rfl
@[simp] theorem resetCore_issued (s : State) : (resetCore s).issued = s.issued := rfl

/-! `State.counted` (entry 6). -/

@[simp] theorem State.counted_ctxValid (s : State) : s.counted.ctxValid = s.ctxValid := rfl
@[simp] theorem State.counted_len (s : State) : s.counted.len = s.len := rfl
@[simp] theorem State.counted_cnt (s : State) : s.counted.cnt = s.cnt := rfl
@[simp] theorem State.counted_buf (s : State) : s.counted.buf = s.buf := rfl
@[simp] theorem State.counted_S (s : State) : s.counted.S = s.S := rfl
@[simp] theorem State.counted_resH1 (s : State) : s.counted.resH1 = s.resH1 := rfl
@[simp] theorem State.counted_resH2 (s : State) : s.counted.resH2 = s.resH2 := rfl
@[simp] theorem State.counted_resultValid (s : State) : s.counted.resultValid = s.resultValid := rfl
@[simp] theorem State.counted_err (s : State) : s.counted.err = s.err := rfl
@[simp] theorem State.counted_errSeen (s : State) : s.counted.errSeen = s.errSeen := rfl
@[simp] theorem State.counted_script (s : State) : s.counted.script = s.script := rfl
@[simp] theorem State.counted_reads (s : State) : s.counted.reads = s.reads := rfl
@[simp] theorem State.counted_issued (s : State) : s.counted.issued = s.issued + 1 := rfl

/-! `State.withFetchWord`. -/

@[simp] theorem State.withFetchWord_ctxValid (s : State) (nbits w : Nat) : (s.withFetchWord nbits w).ctxValid = s.ctxValid := rfl
@[simp] theorem State.withFetchWord_len (s : State) (nbits w : Nat) : (s.withFetchWord nbits w).len = s.len := rfl
@[simp] theorem State.withFetchWord_cnt (s : State) (nbits w : Nat) : (s.withFetchWord nbits w).cnt = s.cnt := rfl
@[simp] theorem State.withFetchWord_buf (s : State) (nbits w : Nat) : (s.withFetchWord nbits w).buf = s.buf := rfl
@[simp] theorem State.withFetchWord_S (s : State) (nbits w : Nat) : (s.withFetchWord nbits w).S = s.S := rfl
@[simp] theorem State.withFetchWord_resH1 (s : State) (nbits w : Nat) : (s.withFetchWord nbits w).resH1 = s.resH1 := rfl
@[simp] theorem State.withFetchWord_resH2 (s : State) (nbits w : Nat) : (s.withFetchWord nbits w).resH2 = s.resH2 := rfl
@[simp] theorem State.withFetchWord_resultValid (s : State) (nbits w : Nat) : (s.withFetchWord nbits w).resultValid = s.resultValid := rfl
@[simp] theorem State.withFetchWord_err (s : State) (nbits w : Nat) : (s.withFetchWord nbits w).err = s.err := rfl
@[simp] theorem State.withFetchWord_errSeen (s : State) (nbits w : Nat) : (s.withFetchWord nbits w).errSeen = s.errSeen := rfl
@[simp] theorem State.withFetchWord_script (s : State) (nbits w : Nat) : (s.withFetchWord nbits w).script = .issue (packetOfTableWord nbits w) :: s.script := rfl
@[simp] theorem State.withFetchWord_reads (s : State) (nbits w : Nat) : (s.withFetchWord nbits w).reads = s.reads := rfl
@[simp] theorem State.withFetchWord_issued (s : State) (nbits w : Nat) : (s.withFetchWord nbits w).issued = s.issued := rfl

/-! `absorbFragment` (R92): its two branches, and what they share. -/

theorem absorbFragment_of_fits (f : List Byte) (s : State) (h : s.cnt.val + f.length < 192) :
    absorbFragment f s = stashFragment f s h := dif_pos h

theorem absorbFragment_of_mixes (f : List Byte) (s : State) (h : 192 ≤ s.cnt.val + f.length) :
    absorbFragment f s = mixFragment f s := dif_neg (by omega)

@[simp] theorem absorbFragment_ctxValid (f : List Byte) (s : State) : (absorbFragment f s).ctxValid = s.ctxValid := by
  unfold absorbFragment; split <;> rfl
@[simp] theorem absorbFragment_len (f : List Byte) (s : State) : (absorbFragment f s).len = s.len + BitVec.ofNat 64 f.length := by
  unfold absorbFragment; split <;> rfl
@[simp] theorem absorbFragment_resH1 (f : List Byte) (s : State) : (absorbFragment f s).resH1 = s.resH1 := by
  unfold absorbFragment; split <;> rfl
@[simp] theorem absorbFragment_resH2 (f : List Byte) (s : State) : (absorbFragment f s).resH2 = s.resH2 := by
  unfold absorbFragment; split <;> rfl
@[simp] theorem absorbFragment_resultValid (f : List Byte) (s : State) : (absorbFragment f s).resultValid = s.resultValid := by
  unfold absorbFragment; split <;> rfl
@[simp] theorem absorbFragment_err (f : List Byte) (s : State) : (absorbFragment f s).err = s.err := by
  unfold absorbFragment; split <;> rfl
@[simp] theorem absorbFragment_errSeen (f : List Byte) (s : State) : (absorbFragment f s).errSeen = s.errSeen := by
  unfold absorbFragment; split <;> rfl
@[simp] theorem absorbFragment_script (f : List Byte) (s : State) : (absorbFragment f s).script = s.script := by
  unfold absorbFragment; split <;> rfl
@[simp] theorem absorbFragment_reads (f : List Byte) (s : State) : (absorbFragment f s).reads = s.reads := by
  unfold absorbFragment; split <;> rfl
@[simp] theorem absorbFragment_issued (f : List Byte) (s : State) : (absorbFragment f s).issued = s.issued := by
  unfold absorbFragment; split <;> rfl

end Sys2Proof.Machine
end

