-- ==== Sys2Proof/Laws/Exec.lean ====
section
/-! SUPPORT. What the shared operations and the six meanings can answer, said once: a command always answers a
next state, and either it failed with one code and only the error fields changed, or it did its work and ERR is
OK. -/

namespace Sys2Proof.Machine

/-- Raising a command error answers the state with the three error fields written (R99). -/
theorem raiseCommandError_eq (code : ErrCode) (s : State) :
    raiseCommandError code s = .next (s.failed code) := rfl

theorem succeed_eq (s : State) : succeed s = .next s.completed := rfl

theorem exec_init (s1 s2 : Word) (s : State) :
    exec (.init s1 s2) s =
      .next (startStream s1 s2 s).completed := rfl

theorem exec_hash128 (m : List Byte) (s1 s2 : Word) (s : State) :
    exec (.hash128 m s1 s2) s =
      .next (s.writeResult (hash128 m s1 s2).1 (hash128 m s1 s2).2).completed := rfl

theorem exec_hash64 (m : List Byte) (s : State) :
    exec (.hash64 m) s =
      .next (s.writeResult (project64 (hash128 m Config.defaultSeed1 Config.defaultSeed2)) 0).completed := rfl

theorem exec_hash32 (m : List Byte) (s : State) :
    exec (.hash32 m) s =
      .next (s.writeResult ((project32 (hash128 m Config.defaultSeed1 Config.defaultSeed2)).setWidth 64) 0).completed := rfl

theorem exec_update_noContext (f : List Byte) (s : State) (h : s.ctxValid = false) :
    exec (.update f) s = .next (s.failed .noContext) := if_pos h

theorem exec_update_overflow (f : List Byte) (s : State) (h : s.ctxValid = true)
    (ho : s.len.toNat + f.length > 2 ^ 64 - 1) : exec (.update f) s = .next (s.failed .lengthOverflow) := by
  show execUpdate f s = _
  unfold execUpdate
  rw [if_neg (by simp [h]), if_pos ho, raiseCommandError_eq]

theorem exec_update_ok (f : List Byte) (s : State) (h : s.ctxValid = true)
    (ho : s.len.toNat + f.length ≤ 2 ^ 64 - 1) :
    exec (.update f) s = .next (absorbFragment f s).completed := by
  show execUpdate f s = _
  unfold execUpdate
  rw [if_neg (by simp [h]), if_neg (by omega), succeed_eq]

theorem exec_final_noContext (s : State) (h : s.ctxValid = false) :
    exec .final s = .next (s.failed .noContext) := if_pos h

theorem exec_final_ok (s : State) (h : s.ctxValid = true) :
    exec .final s = .next (s.writeResult (streamDigest s).1 (streamDigest s).2).completed := by
  show execFinal s = _
  unfold execFinal
  rw [if_neg (by simp [h]), succeed_eq]

/-- Everything UPDATE can do (R92, R101). -/
theorem exec_update_cases (f : List Byte) (s : State) :
    (s.ctxValid = false ∧ exec (.update f) s = .next (s.failed .noContext)) ∨
    (s.ctxValid = true ∧ s.len.toNat + f.length > 2 ^ 64 - 1 ∧
      exec (.update f) s = .next (s.failed .lengthOverflow)) ∨
    (s.ctxValid = true ∧ s.len.toNat + f.length ≤ 2 ^ 64 - 1 ∧
      exec (.update f) s = .next (absorbFragment f s).completed) := by
  rcases hc : s.ctxValid
  · exact .inl ⟨rfl, exec_update_noContext f s hc⟩
  · by_cases ho : s.len.toNat + f.length > 2 ^ 64 - 1
    · exact .inr (.inl ⟨rfl, ho, exec_update_overflow f s hc ho⟩)
    · exact .inr (.inr ⟨rfl, by omega, exec_update_ok f s hc (by omega)⟩)

/-- Everything FINAL can do (R93). -/
theorem exec_final_cases (s : State) :
    (s.ctxValid = false ∧ exec .final s = .next (s.failed .noContext)) ∨
    (s.ctxValid = true ∧
      exec .final s = .next (s.writeResult (streamDigest s).1 (streamDigest s).2).completed) := by
  rcases hc : s.ctxValid
  · exact .inl ⟨rfl, exec_final_noContext s hc⟩
  · exact .inr ⟨rfl, exec_final_ok s hc⟩

/-- The only states a command leads to: a failure that names one of two codes, or the work of that command. -/
theorem exec_next_cases {i : Instr} {s t : State} (h : exec i s = .next t) :
    (∃ code, code ≠ .ok ∧ code ≠ .illegalCommand ∧ t = s.failed code) ∨
    (∃ s1 s2, i = .init s1 s2 ∧
      t = (startStream s1 s2 s).completed) ∨
    (∃ f, i = .update f ∧ s.ctxValid = true ∧ s.len.toNat + f.length ≤ 2 ^ 64 - 1 ∧
      t = (absorbFragment f s).completed) ∨
    (∃ h1 h2, (isOneShot i = true ∨ i = .final ∧ s.ctxValid = true) ∧
      t = (s.writeResult h1 h2).completed) := by
  cases i with
  | init s1 s2 => exact .inr (.inl ⟨s1, s2, rfl, (Host.Outcome.next.inj h).symm⟩)
  | update f =>
    rcases exec_update_cases f s with ⟨-, e⟩ | ⟨-, -, e⟩ | ⟨hc, ho, e⟩ <;>
      have ht := Host.Outcome.next.inj (h.symm.trans e)
    · exact .inl ⟨.noContext, by decide, by decide, ht⟩
    · exact .inl ⟨.lengthOverflow, by decide, by decide, ht⟩
    · exact .inr (.inr (.inl ⟨f, rfl, hc, ho, ht⟩))
  | final =>
    rcases exec_final_cases s with ⟨-, e⟩ | ⟨hc, e⟩ <;> have ht := Host.Outcome.next.inj (h.symm.trans e)
    · exact .inl ⟨.noContext, by decide, by decide, ht⟩
    · exact .inr (.inr (.inr ⟨_, _, .inr ⟨rfl, hc⟩, ht⟩))
  | hash128 m s1 s2 => exact .inr (.inr (.inr ⟨_, _, .inl rfl, (Host.Outcome.next.inj h).symm⟩))
  | hash64 m => exact .inr (.inr (.inr ⟨_, _, .inl rfl, (Host.Outcome.next.inj h).symm⟩))
  | hash32 m => exact .inr (.inr (.inr ⟨_, _, .inl rfl, (Host.Outcome.next.inj h).symm⟩))

/-- Every command answers a next state: none faults and none is refused (R97, R123). -/
theorem exec_answers_next (i : Instr) (s : State) : ∃ t, exec i s = .next t := by
  cases i with
  | init s1 s2 => exact ⟨_, rfl⟩
  | update f => rcases exec_update_cases f s with ⟨-, e⟩ | ⟨-, -, e⟩ | ⟨-, -, e⟩ <;> exact ⟨_, e⟩
  | final => rcases exec_final_cases s with ⟨-, e⟩ | ⟨-, e⟩ <;> exact ⟨_, e⟩
  | hash128 m s1 s2 => exact ⟨_, rfl⟩
  | hash64 m => exact ⟨_, rfl⟩
  | hash32 m => exact ⟨_, rfl⟩

/-- A packet is a command or an illegal word, and nothing else (R58). -/
theorem issuePacket_cases (p : Packet) (s : State) :
    (∃ why, decode p = .illegal why ∧ issuePacket p s = .next (s.failed .illegalCommand)) ∨
    (∃ i, decode p = .command i ∧ issuePacket p s = exec i s) := by
  rcases hd : decode p with i | why
  · exact .inr ⟨i, rfl, by simp only [issuePacket, hd]⟩
  · exact .inl ⟨why, rfl, by simp only [issuePacket, hd, raiseCommandError_eq]⟩

/-- A packet always answers a next state (R123). -/
theorem issuePacket_answers_next (p : Packet) (s : State) : ∃ t, issuePacket p s = .next t := by
  rcases issuePacket_cases p s with ⟨_, _, e⟩ | ⟨i, _, e⟩
  · exact ⟨_, e⟩
  · rw [e]; exact exec_answers_next i s

/-- A host read adds what the register reads to the host's notes and does nothing else (R44). -/
theorem hostRead_eq (idx : RegIndex) (s : State) :
    hostRead idx s = .next { s with reads := s.reads ++ [s.readReg idx] } := rfl

/-- A result register reads its bits while RESULT_VALID = 1 (R33). -/
theorem State.resultReg_of_valid {s : State} (h : s.resultValid = true) (idx : RegIndex) (bits : Word) :
    s.resultReg idx bits = .bits64 bits := if_pos h

/-- While RESULT_VALID = 0 a read of a result register is the recorded fault of R33, whatever bits the model holds. -/
theorem State.resultReg_of_invalid {s : State} (h : s.resultValid = false) (idx : RegIndex) (bits : Word) :
    s.resultReg idx bits = .unwritten (Config.unwrittenResult idx s.issued) := if_neg (by simp [h])

/-- With nothing on the host's script a step changes nothing (R112). -/
theorem step_nil {s : State} (h : s.script = []) : step s = .next s := by
  unfold step; rw [h]

/-- A step is the host's next interaction, taken off its script. -/
theorem step_cons {s : State} {a : HostAction} {rest : List HostAction} (h : s.script = a :: rest) :
    step s = hostAct a { s with script := rest } := by
  unfold step; rw [h]

/-- Of any machine: a run of `k + 1` steps is one step and then a run of `k`. -/
theorem Core.run_succ (M : Host.Core) (k : Nat) (s t : M.State) (h : M.step s = .next t) :
    M.run (k + 1) s = M.run k t := by
  simp only [Host.Core.run, h]

/-- A run of `k + 1` steps of the core is one step and then a run of `k`. -/
theorem run_succ {k : Nat} {s t : State} (h : step s = .next t) :
    Sys2Proof.core.run (k + 1) s = Sys2Proof.core.run k t := Core.run_succ Sys2Proof.core k s t h

end Sys2Proof.Machine
end

