-- ==== Sys2Proof/Laws/Memory.lean ====
section
/-! SUPPORT. BUF: a read after a write, the range operations, and that every operation keeps the canonical
form. -/

namespace Sys2Proof.Machine

@[simp] theorem Memory.read_nil (a : Nat) : Memory.read [] a = Memory.unlisted := rfl

theorem Memory.read_cons (c : Host.Cell) (m : Memory) (a : Nat) :
    Memory.read (c :: m) a = if c.1 = a then c.2 else Memory.read m a := rfl

/-- A byte below every listed address reads as an unlisted one. -/
theorem Memory.read_of_lt (m : Memory) (a : Nat) (h : ∀ c ∈ m, a < c.1) : m.read a = Memory.unlisted := by
  induction m with
  | nil => rfl
  | cons c m ih =>
    rw [Memory.read_cons, if_neg (by have := h c (by simp); omega)]
    exact ih fun c' hc' => h c' (by simp [hc'])

/-- What a write puts into BUF is read back at its address and nowhere else. -/
theorem Memory.read_write (m : Memory) (a b : Nat) (v : Byte) (hm : m.Pairwise (fun x y => x.1 < y.1)) :
    (m.write a v).read b = if b = a then v else m.read b := by
  induction m with
  | nil =>
    unfold Memory.write
    by_cases hv : v = Memory.unlisted <;> by_cases hb : b = a <;> simp_all [Memory.read_cons]
    · intro h; exact absurd h.symm hb
  | cons c m ih =>
    have hlow := (List.pairwise_cons.mp hm).1
    have ih := ih (List.pairwise_cons.mp hm).2
    unfold Memory.write
    split
    · have hmiss : Memory.read (c :: m) a = Memory.unlisted :=
        Memory.read_of_lt _ _ fun c' hc' => by
          rcases List.mem_cons.mp hc' with rfl | h
          · assumption
          · have := hlow c' h; omega
      split
      · by_cases hb : b = a
        · subst hb; rw [hmiss]; simp_all
        · simp [hb]
      · rw [Memory.read_cons]
        by_cases hb : b = a
        · subst hb; simp
        · rw [if_neg (by intro h; exact hb h.symm), if_neg hb]
    · split
      · have ha : a = c.1 := by assumption
        subst ha
        have hmiss : Memory.read m c.1 = Memory.unlisted := Memory.read_of_lt _ _ hlow
        split
        · by_cases hb : b = c.1
          · subst hb; rw [hmiss]; simp_all
          · rw [Memory.read_cons, if_neg hb, if_neg (Ne.symm hb)]
        · rw [Memory.read_cons, Memory.read_cons]
          by_cases hb : b = c.1
          · subst hb; simp
          · simp [hb, Ne.symm hb]
      · rw [Memory.read_cons, Memory.read_cons, ih]
        by_cases hc : c.1 = b
        · rw [if_pos hc, if_pos hc, if_neg (by omega)]
        · rw [if_neg hc, if_neg hc]

/-- A write adds no cell but its own. -/
theorem Memory.mem_write {m : Memory} {a : Nat} {v : Byte} {c : Host.Cell} (h : c ∈ m.write a v) :
    c ∈ m ∨ (c = (a, v) ∧ v ≠ Memory.unlisted) := by
  induction m with
  | nil =>
    unfold Memory.write at h
    split at h <;> simp_all
  | cons d m ih =>
    unfold Memory.write at h
    split at h
    · split at h
      · exact .inl h
      · rcases List.mem_cons.mp h with rfl | h
        · exact .inr ⟨rfl, by assumption⟩
        · exact .inl h
    · split at h
      · split at h
        · exact .inl (List.mem_cons_of_mem _ h)
        · rcases List.mem_cons.mp h with rfl | h
          · exact .inr ⟨rfl, by assumption⟩
          · exact .inl (List.mem_cons_of_mem _ h)
      · rcases List.mem_cons.mp h with rfl | h
        · exact .inl (by simp)
        · rcases ih h with h | h
          · exact .inl (List.mem_cons_of_mem _ h)
          · exact .inr h

/-- A write keeps the cells in rising order of address. -/
theorem Memory.write_sorted {m : Memory} {a : Nat} {v : Byte} (hm : m.Pairwise (fun x y => x.1 < y.1)) :
    (m.write a v).Pairwise (fun x y => x.1 < y.1) := by
  induction m with
  | nil =>
    unfold Memory.write
    split <;> simp
  | cons d m ih =>
    have hlow := (List.pairwise_cons.mp hm).1
    have htail := (List.pairwise_cons.mp hm).2
    unfold Memory.write
    split
    · split
      · exact hm
      · refine List.pairwise_cons.mpr ⟨fun c hc => ?_, hm⟩
        rcases List.mem_cons.mp hc with rfl | h
        · assumption
        · have := hlow c h; simp only; omega
    · split
      · split
        · exact htail
        · refine List.pairwise_cons.mpr ⟨fun c hc => ?_, htail⟩
          have := hlow c hc; simp only; omega
      · refine List.pairwise_cons.mpr ⟨fun c hc => ?_, ih htail⟩
        rcases Memory.mem_write hc with h | ⟨rfl, -⟩
        · exact hlow c h
        · simp only; omega

/-- A write at an address of BUF keeps the canonical form. -/
theorem Memory.write_wf {m : Memory} {a : Nat} {v : Byte} (hm : m.wf) (ha : a < 192) : (m.write a v).wf := by
  refine ⟨Memory.write_sorted hm.1, fun c hc => ?_⟩
  rcases Memory.mem_write hc with h | ⟨rfl, hv⟩
  · exact hm.2 c h
  · exact ⟨ha, hv⟩

/-- `MemWrite` within BUF keeps the canonical form (R13, R27). -/
theorem Memory.writeRange_wf {m : Memory} (bs : List Byte) (off : Nat) (hm : m.wf) (h : off + bs.length ≤ 192) :
    (m.writeRange off bs).wf := by
  induction bs generalizing m off with
  | nil => exact hm
  | cons b bs ih =>
    simp only [List.length_cons] at h
    exact ih (off + 1) (Memory.write_wf hm (by omega)) (by omega)

/-- What `MemWrite(BUF, off, B)` leaves at each address: byte `a − off` of `B` inside the range, else what
stood there (R13). -/
theorem Memory.read_writeRange (m : Memory) (off : Nat) (bs : List Byte) (a : Nat)
    (hm : m.Pairwise (fun x y => x.1 < y.1)) :
    (m.writeRange off bs).read a = if off ≤ a ∧ a < off + bs.length then bs[a - off]! else m.read a := by
  induction bs generalizing m off with
  | nil => rw [Memory.writeRange, if_neg (by simp only [List.length_nil]; omega)]
  | cons b bs ih =>
    rw [Memory.writeRange, ih _ _ (Memory.write_sorted hm), Memory.read_write _ _ _ _ hm]
    simp only [List.length_cons]
    by_cases h1 : a = off
    · subst h1
      rw [if_neg (by omega), if_pos rfl, if_pos (by omega)]
      simp
    · by_cases h2 : off + 1 ≤ a ∧ a < off + 1 + bs.length
      · rw [if_pos h2, if_pos (by omega), show a - off = (a - (off + 1)) + 1 by omega]
        simp
      · rw [if_neg h2, if_neg h1, if_neg (by omega)]

@[simp] theorem Memory.length_readRange (m : Memory) (off n : Nat) : (m.readRange off n).length = n := by
  simp [Memory.readRange]

@[simp] theorem Memory.getElem_readRange (m : Memory) (off n j : Nat) (h : j < (m.readRange off n).length) :
    (m.readRange off n)[j] = m.read (off + j) := by
  simp [Memory.readRange]

/-- Two memories that agree on a range give the same bytes for it. -/
theorem Memory.readRange_congr {m m' : Memory} {off n : Nat} (h : ∀ j, j < n → m.read (off + j) = m'.read (off + j)) :
    m.readRange off n = m'.readRange off n := by
  simp only [Memory.readRange]
  exact List.map_congr_left fun j hj => h j (List.mem_range.mp hj)

/-- The bytes written are the bytes read back. -/
theorem Memory.readRange_writeRange (m : Memory) (off : Nat) (bs : List Byte)
    (hm : m.Pairwise (fun x y => x.1 < y.1)) : (m.writeRange off bs).readRange off bs.length = bs := by
  apply List.ext_getElem
  · simp
  · intro j h1 h2
    rw [Memory.getElem_readRange, Memory.read_writeRange _ _ _ _ hm, if_pos (by omega)]
    simp [h2]

end Sys2Proof.Machine
end

