-- ==== Sys2Proof/Laws/PerInstr.lean ====
section
/-! SUPPORT. Per-command facts about the encoding, one lemma for each constructor (R54, R55, R56, R61). -/

namespace Sys2Proof.Laws.Encoding

/-- The command reads SEED1 and SEED2 (R56). -/
def readsSeeds : Instr → Bool
  | .init _ _ => true
  | .update _ => false
  | .final => false
  | .hash128 _ _ _ => true
  | .hash64 _ => false
  | .hash32 _ => false

/-- The command reads MSG (R56). -/
def readsMsg : Instr → Bool
  | .init _ _ => false
  | .update _ => true
  | .final => false
  | .hash128 _ _ _ => true
  | .hash64 _ => true
  | .hash32 _ => true

/-- A command's packet carries one of the six legal words, RSV = 0 in it, and the operands the command ignores
are encoded as 0 (R55, R56, R61); the packet exists exactly when the command is well formed. -/
def Statement (i : Instr) : Prop :=
  rsv (encode i).cmd = 0 ∧ 1 ≤ (opc (encode i).cmd).toNat ∧ (opc (encode i).cmd).toNat ≤ 6 ∧
    (readsSeeds i = false → (encode i).seed1 = 0 ∧ (encode i).seed2 = 0) ∧
    (readsMsg i = false → (encode i).msg = []) ∧ (i.wf = true ↔ (encode i).wf)

theorem init (seed1 seed2 : Word) : Statement (.init seed1 seed2) := by
  simp [Statement, encode, cmdWord, rsv, opc, readsSeeds, readsMsg, Instr.wf]

theorem update (msg : List Byte) : Statement (.update msg) := by
  simp [Statement, encode, cmdWord, rsv, opc, readsSeeds, readsMsg, Instr.wf]

theorem final : Statement .final := by
  simp [Statement, encode, cmdWord, rsv, opc, readsSeeds, readsMsg, Instr.wf]

theorem hash128 (msg : List Byte) (seed1 seed2 : Word) : Statement (.hash128 msg seed1 seed2) := by
  simp [Statement, encode, cmdWord, rsv, opc, readsSeeds, readsMsg, Instr.wf]

theorem hash64 (msg : List Byte) : Statement (.hash64 msg) := by
  simp [Statement, encode, cmdWord, rsv, opc, readsSeeds, readsMsg, Instr.wf]

theorem hash32 (msg : List Byte) : Statement (.hash32 msg) := by
  simp [Statement, encode, cmdWord, rsv, opc, readsSeeds, readsMsg, Instr.wf]

end Sys2Proof.Laws.Encoding
end

