-- ==== Sys2Proof/Laws/Streaming.lean ====
section
/-! SUPPORT. What UPDATE's two branches leave in CNT and BUF (R92). -/

namespace Sys2Proof.Machine

/-- `|T| = CNT + n`. -/
@[simp] theorem State.length_joined (s : State) (f : List Byte) : (s.joined f).length = s.cnt.val + f.length := by
  simp [State.joined]

/-- What the mixing branch stashes is what of T is left after its complete blocks: fewer than 96 bytes. -/
theorem length_unabsorbed (t : List Byte) : (slice t (96 * (t.length / 96)) t.length).length = t.length % 96 := by
  simp only [length_slice]
  omega

/-- CNT after a successful UPDATE. -/
theorem absorbFragment_cnt (f : List Byte) (s : State) :
    (absorbFragment f s).cnt.val =
      if s.cnt.val + f.length < 192 then s.cnt.val + f.length else (s.cnt.val + f.length) % 96 := by
  by_cases h : s.cnt.val + f.length < 192
  · rw [absorbFragment_of_fits f s h, if_pos h, stashFragment_cnt]
  · rw [absorbFragment_of_mixes f s (by omega), if_neg h, mixFragment_cnt, State.length_joined]
    simp only [Fin.ofNat]
    omega

/-- Every store of UPDATE lies inside BUF, so BUF keeps its canonical form. -/
theorem absorbFragment_buf_wf {f : List Byte} {s : State} (h : s.buf.wf) : (absorbFragment f s).buf.wf := by
  by_cases fits : s.cnt.val + f.length < 192
  · rw [absorbFragment_of_fits f s fits, stashFragment_buf]
    exact Memory.writeRange_wf f s.cnt.val h (by omega)
  · rw [absorbFragment_of_mixes f s (by omega), mixFragment_buf]
    refine Memory.writeRange_wf _ 0 h ?_
    rw [length_unabsorbed]
    omega

end Sys2Proof.Machine
end

