-- ==== Sys2Proof/Laws/Words.lean ====
section
/-! SUPPORT. Arrays of words: a read after a write, and an array as its words. -/

namespace Sys2Proof.Machine

theorem wordAt_eq {n : Nat} [NeZero n] (h : Vector Word n) (i : Nat) :
    wordAt h i = h[i % n]'(Nat.mod_lt _ (Nat.pos_of_neZero n)) := rfl

/-- A word written is read back at its index mod n and nowhere else (R13). -/
theorem wordAt_setWord {n : Nat} [NeZero n] (h : Vector Word n) (i j : Nat) (v : Word) :
    wordAt (setWord h i v) j = if j % n = i % n then v else wordAt h j := by
  simp only [wordAt_eq, setWord, Fin.ofNat]
  rw [Vector.getElem_set]
  by_cases e : j % n = i % n
  · rw [if_pos e.symm, if_pos e]
  · rw [if_neg (Ne.symm e), if_neg e]

theorem wordAt_addWord {n : Nat} [NeZero n] (h : Vector Word n) (i j : Nat) (v : Word) :
    wordAt (addWord h i v) j = if j % n = i % n then wordAt h i + v else wordAt h j := wordAt_setWord h i j _

theorem wordAt_xorWord {n : Nat} [NeZero n] (h : Vector Word n) (i j : Nat) (v : Word) :
    wordAt (xorWord h i v) j = if j % n = i % n then wordAt h i ^^^ v else wordAt h j := wordAt_setWord h i j _

theorem wordAt_rotWord {n : Nat} [NeZero n] (h : Vector Word n) (i j k : Nat) :
    wordAt (rotWord h i k) j = if j % n = i % n then rotl64 (wordAt h i) k else wordAt h j := wordAt_setWord h i j _

/-- An index counts mod n. -/
theorem wordAt_congr {n : Nat} [NeZero n] (h : Vector Word n) {i j : Nat} (e : i % n = j % n) :
    wordAt h i = wordAt h j := by
  simp only [wordAt_eq, e]

/-- Two arrays with the same words are equal. -/
theorem words_ext {n : Nat} [NeZero n] {h h' : Vector Word n} (e : ∀ i, i < n → wordAt h i = wordAt h' i) : h = h' := by
  apply Vector.ext
  intro i hi
  have := e i hi
  simpa only [wordAt_eq, Nat.mod_eq_of_lt hi] using this

/-- The twelve words of an array, one by one. -/
theorem words12_eta (h : Vector Word 12) :
    h = #v[wordAt h 0, wordAt h 1, wordAt h 2, wordAt h 3, wordAt h 4, wordAt h 5, wordAt h 6, wordAt h 7, wordAt h 8,
      wordAt h 9, wordAt h 10, wordAt h 11] := by
  obtain ⟨⟨words⟩, size⟩ := h
  match words, size with
  | [_, _, _, _, _, _, _, _, _, _, _, _], _ => rfl

/-- The four words of an array, one by one. -/
theorem words4_eta (h : Vector Word 4) : h = #v[wordAt h 0, wordAt h 1, wordAt h 2, wordAt h 3] := by
  obtain ⟨⟨words⟩, size⟩ := h
  match words, size with
  | [_, _, _, _], _ => rfl

end Sys2Proof.Machine
end

