-- ==== Sys2Proof/Tests/Slice0.lean ====
section
/-! SUPPORT. Checks of the model against values written in spec/ (95_test_vectors.md: the vector's name stands at
each test), ill-formed terms, and for every obligation with hypotheses a state and operands that meet them. -/

namespace Sys2Proof.Tests

open Sys2Proof.Machine

-- One theorem at a time: kernel evaluations side by side would each hold a thread and its stack.
set_option Elab.async false

/-! ## Helpers -/

/-- The outcome is a next state with `p`. -/
def goesTo (o : Outcome) (p : State → Bool) : Bool :=
  match o with
  | .next t => p t
  | .fault _ => false
  | .refused _ => false

theorem exists_next {o : Outcome} {p : State → Prop} [DecidablePred p] (h : goesTo o (fun t => decide (p t)) = true) :
    ∃ t, o = .next t ∧ p t := by
  cases o with
  | next t => exact ⟨t, rfl, of_decide_eq_true h⟩
  | fault f => cases h
  | refused r => cases h

/-- A core with a streaming context of the given LEN and CNT, everything else as after reset. -/
def streaming (len : Nat) (cnt : Fin 192) : State :=
  { State.reset with ctxValid := true, len := BitVec.ofNat 64 len, cnt }

/-- A core in which all registers differ from their reset values: a result is held and a failure was seen. -/
def busy : State :=
  { State.reset with
    ctxValid := true, len := 1, cnt := 1, buf := [(0, 0x61)], S := mixInit 1 2, resH1 := 7, resH2 := 8,
    resultValid := true, errSeen := true }

/-- The stream of `INIT 1, 2` and `UPDATE` of the one byte 61. -/
def shortStream : State := { State.reset with ctxValid := true, len := 1, cnt := 1, buf := [(0, 0x61)], S := mixInit 1 2 }

/-- The stream of `INIT 1, 2` and `UPDATE zeros(192)`. -/
def longStream : State :=
  { State.reset with ctxValid := true, len := 192, S := mixBlocks (mixInit 1 2) (zeros 192) 2 }

/-- The stream of seq(288, 128) after `INIT 0, 0` and fragments of 192 and 96 bytes: S is V-M4, and the third
block is buffered. -/
def bufferedBlockStream : State :=
  { State.reset with
    ctxValid := true, len := 288, cnt := 96, buf := Memory.writeRange [] 0 (seqBytes 96 64)
    S := #v[0x2A964AB5EC255679, 0x15FC4AF67400FF45, 0x05AD6E6B02AE3C05, 0x72C2A9C49FE61DCF,
      0x5017A6FA3600EDCB, 0xF92758BCA62BBAFA, 0x0D9491C981E0A374, 0x8A047323EB0ABA9D,
      0x7B358504AF775454, 0x11F5581883F13E03, 0x0117D9C0334FC65D, 0x16B89DD2886E573F] }

/-! ## Ill-formed terms -/

theorem test_wf_update_too_long : (Instr.update (List.replicate (2 ^ 64) 0)).wf = false := by
  simp [-List.reduceReplicate, Instr.wf]
theorem test_wf_hash128_too_long : (Instr.hash128 (List.replicate (2 ^ 64) 0) 0 0).wf = false := by
  simp [-List.reduceReplicate, Instr.wf]
theorem test_wf_hash64_too_long : (Instr.hash64 (List.replicate (2 ^ 64) 0)).wf = false := by
  simp [-List.reduceReplicate, Instr.wf]
theorem test_wf_hash32_too_long : (Instr.hash32 (List.replicate (2 ^ 64) 0)).wf = false := by
  simp [-List.reduceReplicate, Instr.wf]
theorem test_wf_packet_too_long : ¬(Packet.mk 0x00000003 0 0 (List.replicate (2 ^ 64) 0)).wf := by
  simp [-List.reduceReplicate]
theorem test_wf_issue_too_long : (HostAction.issue ⟨0x00000003, 0, 0, List.replicate (2 ^ 64) 0⟩).wf = false := by
  simp [-List.reduceReplicate, HostAction.wf]
theorem test_wf_reset_during_too_long :
    (HostAction.resetDuring ⟨0x00000003, 0, 0, List.replicate (2 ^ 64) 0⟩).wf = false := by
  simp [-List.reduceReplicate, HostAction.wf]
theorem test_wf_longest_message : (Instr.update (List.replicate (2 ^ 64 - 1) 0)).wf = true := by
  simp [-List.reduceReplicate, Instr.wf]
theorem test_memory_wf_refuses :
    ¬Memory.wf [(5, 1), (3, 1)] ∧ ¬Memory.wf [(5, 1), (5, 2)] ∧ ¬Memory.wf [(192, 1)] ∧ ¬Memory.wf [(5, 0)] ∧
      Memory.wf [(0, 1), (191, 2)] := by decide

/-! ## Decoding: words written out bit by bit from R54's pattern and R55's OPC, and the table of 2.7 -/

theorem test_decode_init : decode ⟨0b00000000000000000000000000000001, 5, 6, [7]⟩ = .command (.init 5 6) := by decide
theorem test_decode_update : decode ⟨0b00000000000000000000000000000010, 5, 6, [7]⟩ = .command (.update [7]) := by decide
theorem test_decode_final : decode ⟨0b00000000000000000000000000000011, 5, 6, [7]⟩ = .command .final := by decide
theorem test_decode_hash128 :
    decode ⟨0b00000000000000000000000000000100, 5, 6, [7]⟩ = .command (.hash128 [7] 5 6) := by decide
theorem test_decode_hash64 : decode ⟨0b00000000000000000000000000000101, 5, 6, [7]⟩ = .command (.hash64 [7]) := by decide
theorem test_decode_hash32 : decode ⟨0b00000000000000000000000000000110, 5, 6, [7]⟩ = .command (.hash32 [7]) := by decide
theorem test_decode_illegal :
    decode ⟨0x00000000, 0, 0, []⟩ = .illegal .reservedOpcode ∧ decode ⟨0x00000007, 0, 0, []⟩ = .illegal .reservedOpcode ∧
      decode ⟨0x0000000F, 0, 0, []⟩ = .illegal .reservedOpcode ∧ decode ⟨0x00000010, 0, 0, []⟩ = .illegal .reservedBits ∧
      decode ⟨0x80000004, 0, 0, []⟩ = .illegal .reservedBits ∧ decode ⟨0xFFFFFFFF, 0, 0, []⟩ = .illegal .reservedBits := by
  decide
/-- The first step after reset runs a placed word. -/
theorem test_first_step_runs_placed_word :
    step (State.reset.withFetchWord 32 0x00000004) = exec (.hash128 [] 0 0) State.reset.counted := rfl

/-! ## The six commands -/

/-- R91's worked example. -/
theorem test_init_after_reset : goesTo (exec (.init 1 2) State.reset) (fun t => t.status = 0x00000001 ∧ t.len = 0) := by
  decide +kernel
/-- V-S32: INIT in long form. -/
theorem test_init_in_long_form :
    goesTo (exec (.init 1 2) longStream) (fun t => t.status = 0x00000001 ∧ t.cnt = 0 ∧ t.len = 0) := by decide +kernel
/-- V-S18: 192 bytes after one promote and mix two blocks, which leaves V-M4 in S and one byte in BUF. -/
theorem test_update_promotes :
    goesTo (exec (.update (seqBytes 192 129)) { streaming 1 1 with buf := [(0, 0x80)] })
      (fun t => t.cnt = 1 ∧ t.len = 193 ∧ t.status = 0x0103 ∧ t.buf.read 0 = 0x40 ∧
        wordAt t.S 0 = 0x2A964AB5EC255679 ∧ wordAt t.S 11 = 0x16B89DD2886E573F) := by decide +kernel
/-- V-E5 and V-E6: the last length that fits, and the first that does not. -/
theorem test_update_length_limit :
    goesTo (exec (.update [0, 0, 0]) (streaming (2 ^ 64 - 3) 61)) (fun t => t.status = 0x3D3B ∧ t.len = 2 ^ 64 - 3) ∧
      goesTo (exec (.update [0, 0]) (streaming (2 ^ 64 - 3) 61)) (fun t => t.status = 0x3F03 ∧ t.len = 2 ^ 64 - 1) := by
  decide +kernel
/-- V-O9a: FINAL mixes a complete buffered block first. -/
theorem test_final_mixes_buffered_block :
    goesTo (exec .final bufferedBlockStream)
      (fun t => t.resH1 = 0x4371099947880140 ∧ t.resH2 = 0x34556B92BC6745A9 ∧ t.status = 0x00006007) := by
  decide +kernel
/-- V-E7: FINAL without a context, after a result. -/
theorem test_final_no_context :
    goesTo (exec .final { State.reset with resultValid := true, resH1 := 1 }) (fun t => t.status = 0x00000028) := by
  decide +kernel
/-- V-O9b. -/
theorem test_hash128_long :
    goesTo (exec (.hash128 (seqBytes 200 128) 0 0) State.reset)
      (fun t => t.resH1 = 0x60A579A81F6F7162 ∧ t.resH2 = 0xC48E23A52DAF0313 ∧ t.status = 0x00000004) := by decide +kernel
/-- V-P8: the context is untouched. -/
theorem test_hash128_in_stream :
    goesTo (exec (.hash128 (seqBytes 100 128) 0 0) (streaming 5 5))
      (fun t => t.resH1 = 0xD9368B96DE4A961F ∧ t.resH2 = 0xE3ECC48683324F30 ∧ t.status = 0x00000505) := by decide +kernel
/-- V-O10, under the example instantiation of the seeds. -/
theorem test_hash64_example_seeds :
    goesTo (hash64With 0 0 [0x61, 0x62, 0x63] State.reset)
      (fun t => t.resH1 = 0x8AAB15F77537C967 ∧ t.resH2 = 0 ∧ t.status = 0x00000004) := by decide +kernel
/-- V-P7 and V-P4, under the example instantiation of the seeds. -/
theorem test_hash32_example_seeds :
    goesTo (hash32With 0 0 [0x00] State.reset) (fun t => t.resH1 = 0x0000000004291280 ∧ t.status = 0x00000004) ∧
      goesTo (hash32With 0 0 [0x61, 0x62, 0x63] State.reset) (fun t => t.resH1 = 0x000000007537C967 ∧ t.resH2 = 0) := by
  decide +kernel
/-- V-E4: a reserved bit is reported before the missing context. -/
theorem test_illegal_word_first :
    goesTo (issuePacket ⟨0x00000012, 0, 0, []⟩ State.reset) (fun t => t.status = 0x00000018 ∧ t.len = 0) := by
  decide +kernel
/-- V-E8: ERR_SEEN stays. -/
theorem test_err_seen_stays :
    goesTo (exec (.hash128 [] 0 0) (State.reset.failed .noContext)) (fun t => t.status = 0x0000000C) := by decide +kernel

/-! ## The datapath -/

/-- V-R3 to V-R5. -/
theorem test_little_endian :
    le (seqBytes 3 128) = 0x0000000000828180 ∧ le (seqBytes 8 128) = 0x8786858483828180 ∧
      memRead (seqBytes 12 128) 8 4 = 0x000000008B8A8988 := by decide
/-- V-M2. -/
theorem test_mix_seeded :
    mix (mixInit 1 2) (seqBytes 96 128) =
      #v[0xEC4B29711D2541DD, 0xD54F10B02B2ACF5B, 0x949A9B3658A23F3C, 0x45EB89376205AE4F,
        0xB8E6B3263C1F0E18, 0xB49A3D6FC1DA43F6, 0x961D3E1C181ACE7A, 0xD8B4C4731029365E,
        0x761B41F16311057E, 0x83B508CA71D4D239, 0x898F510E5820DFDF, 0x38C1985FB73D4A38] := by decide +kernel
/-- V-L5. -/
theorem test_end_partial :
    endPartial (mixInit 0 0) =
      #v[0xC6F08D4BC6F08D43, 0xEE8E501BEE8E301B, 0x0000000000000000, 0xDEADBEEFDEADBEEF,
        0xDEADBEEFDEADBEEF, 0x8A1D7AE78A1D7AE6, 0x120C41E8120C41E8, 0xC9080162C9080162,
        0xE1890BF8E1892BF8, 0xC2352F1BC2350F1B, 0xEE8E501BEE8E301B, 0x92545CFC92D45CFC] := by decide +kernel
/-- V-L6. -/
theorem test_end_long :
    endLong (mixInit 0 0) (zeros 96) =
      #v[0xEAD03033DCF83712, 0xB919A80440B73F4E, 0xA67B2B3F89A8358E, 0x5BE84DEF6A9D5BB7,
        0x4D8F7CFCC8FF931C, 0x0C5D0197120FFE70, 0x691553B5A3BC68A7, 0x751BA8A530A60CF4,
        0x3C93F87985C11FFC, 0x4FCC57E45C31408C, 0x19DEC57D70DE391E, 0xF48CBEF684B470FC] := by decide +kernel
/-- V-L3. -/
theorem test_tail_block_full : tailBlock (seqBytes 95 0) = seqBytes 95 0 ++ [0x5F] := by decide +kernel
/-- V-H3, the last row. -/
theorem test_short_end_trace :
    shortEnd #v[0, 0, 0xDEADBEEFDF112150, 0xE1ADBEEFDEADBEEF] =
      #v[0x8AAB15F77537C967, 0xC61367F8CA7811B0, 0x6212803E073FD61C, 0xE58983F18FCE3B98] := by decide +kernel
/-- V-H4: a tail of 8 bytes and one of 9. -/
theorem test_short_tails :
    short (seqBytes 8 128) 0 0 = (0x65314472EE193982, 0xEF2A350432174B2A) ∧
      short (seqBytes 9 128) 0 0 = (0x4A11D26E54F86F29, 0xBF6B4C3130B11D4C) := by decide +kernel
/-- V-H4: the pair alone, a group alone, and the largest short message. -/
theorem test_short_pairs_and_groups :
    short (seqBytes 16 128) 0 0 = (0x8D4789B8F274736C, 0x571FC8B06E34F05D) ∧
      short (seqBytes 32 128) 0 0 = (0x8382F14FE5CFC8B6, 0x97BEE62A5B8D415E) ∧
      short (seqBytes 191 128) 0 0 = (0x57067B56E13D9E19, 0x2F4AF0DC8BE304D6) := by decide +kernel
/-- V-O9 and V-O14. -/
theorem test_long_messages :
    hash128 (seqBytes 287 128) 0 0 = (0xAE8B1714C22C642D, 0x40C6AADCAA589C12) ∧
      hash128 (seqBytes 192 128) 1 2 = (0xAD06B6E303746394, 0x15F711999AC12196) := by decide +kernel
/-- V-O28. -/
theorem test_zero_message :
    hash128 (zeros 193) 0 0 = (0x3F741B9B9800BD81, 0x85C8E657FF3AD58F) := by decide +kernel
/-- V-O13. -/
theorem test_seeds_all_ones :
    hash128 [0x61, 0x62, 0x63] 0xFFFFFFFFFFFFFFFF 0xFFFFFFFFFFFFFFFF = (0xBDEA70D5C8E709B2, 0xCF88B6F9C89A1F41) := by
  decide +kernel

/-! ## Assembly text (R61, R63) -/

theorem test_parse_init : parseLine? "INIT 0x1, 0x2".toList = some (.init 1 2) := by decide
theorem test_parse_update : parseLine? "UPDATE x\"61 62 63\"".toList = some (.update (.hex [0x61, 0x62, 0x63])) := by decide
theorem test_parse_hex_digits :
    parseLine? "UPDATE x\"09 AF af\"".toList = some (.update (.hex [0x09, 0xAF, 0xAF])) ∧
      parseLine? "UPDATE x\"0G\"".toList = none := by decide
theorem test_parse_hash128 :
    parseLine? "HASH128 seq(100, 128), 0, 0".toList = some (.hash128 (.seq 100 128) 0 0) := by decide
theorem test_parse_hash64 : parseLine? "HASH64 x\"\"".toList = some (.hash64 (.hex [])) := by decide
theorem test_parse_join :
    parseLine? "HASH32 zeros(2) ++ x\"00\"".toList = some (.hash32 (.append (.zeros 2) (.hex [0]))) := by decide
theorem test_parse_read : parseLine? "READ CTX_LEN".toList = some (.read .ctxLen) := by decide
theorem test_parse_too_big : parseLine? "INIT 18446744073709551616, 0".toList = none := by decide
theorem test_parse_hash_stream :
    parseLine? "HASHSTREAM x\"616263\", 1, 2".toList = some (.hashStream (.hex [0x61, 0x62, 0x63]) 1 2) := by decide

/-! ## Witnesses: for each obligation with hypotheses, a state and operands that meet them all, each clause at the
edges of its range -/

theorem test_witness_DecodeUndoesEncode :
    (Instr.init 0 0xFFFFFFFFFFFFFFFF).wf ∧ (Instr.update []).wf ∧ Instr.final.wf ∧ (Instr.hash128 [0] 1 2).wf ∧
      (Instr.hash64 []).wf ∧ (Instr.hash32 []).wf ∧ (Instr.update (List.replicate (2 ^ 64 - 1) 0)).wf :=
  ⟨rfl, by decide, rfl, by decide, by decide, by decide, test_wf_longest_message⟩

theorem test_witness_StepRunsTheDecodedCommand :
    { busy with script := [.issue ⟨0x00000003, 5, 6, [7]⟩] }.script = .issue ⟨0x00000003, 5, 6, [7]⟩ :: [] ∧
      decode ⟨0x00000003, 5, 6, [7]⟩ = .command .final ∧ decodeTableWord 32 0x00000005 = some (.hash64 []) ∧
      { busy with script := [.issue ⟨0x00000007, 5, 6, [7]⟩] }.script = .issue ⟨0x00000007, 5, 6, [7]⟩ :: [] ∧
      decode ⟨0x00000007, 5, 6, [7]⟩ = .illegal .reservedOpcode := by decide

/-- OPC 0x0, 0x7 and 0xF, the lowest and the highest reserved bit, and the edges 1 and 6 of the legal words. -/
theorem test_witness_IllegalWordFailsWithIllegalCommand :
    opc 0x00000000 = 0 ∧ 7 ≤ (opc 0x00000007).toNat ∧ 7 ≤ (opc 0x0000000F).toNat ∧ rsv 0x00000011 ≠ 0 ∧
      rsv 0x80000004 ≠ 0 ∧ 1 ≤ (0x00000001 : CmdWord).toNat ∧ (0x00000006 : CmdWord).toNat ≤ 6 := by decide

theorem test_witness_InitStartsANewStream : ∃ t, exec (.init 1 2) longStream = .next t := ⟨_, rfl⟩

/-- No context; the first length that overflows; the last that does not; CNT + n = 191, 192, and 0. -/
theorem test_witness_UpdateAppendsAFragment :
    State.reset.ctxValid = false ∧
    ((streaming (2 ^ 64 - 1) 63).ctxValid = true ∧ (streaming (2 ^ 64 - 1) 63).len.toNat + [(0 : Byte)].length > 2 ^ 64 - 1) ∧
    ((streaming (2 ^ 64 - 2) 62).ctxValid = true ∧ (streaming (2 ^ 64 - 2) 62).len.toNat + [(0 : Byte)].length ≤ 2 ^ 64 - 1 ∧
      (streaming (2 ^ 64 - 2) 62).cnt.val + [(0 : Byte)].length < 192) ∧
    ((streaming 190 190).ctxValid = true ∧ (streaming 190 190).len.toNat + [(0 : Byte)].length ≤ 2 ^ 64 - 1 ∧
      (streaming 190 190).cnt.val + [(0 : Byte)].length < 192) ∧
    ((streaming 191 191).ctxValid = true ∧ (streaming 191 191).len.toNat + [(0 : Byte)].length ≤ 2 ^ 64 - 1 ∧
      192 ≤ (streaming 191 191).cnt.val + [(0 : Byte)].length ∧
      zeros 192 = (streaming 191 191).buf.readRange 0 (streaming 191 191).cnt.val ++ [0]) := by decide +kernel

theorem test_witness_UpdateCornerCases :
    shortStream.ctxValid = true ∧
    (∃ t, exec (.update (zeros 1)) (streaming 191 191) = .next t ∧
      t.err = .ok ∧ 192 ≤ (streaming 191 191).cnt.val + (zeros 1).length) ∧
    (∃ t, exec (.update [0xFF]) (streaming 191 191) = .next t ∧ t.err = .ok ∧ (streaming 191 191).cnt = 191) :=
  ⟨rfl, exists_next (by decide +kernel), exists_next (by decide +kernel)⟩

/-- LEN 191 and 192; CNT 0, 95, 96 and 191 in long form. -/
theorem test_witness_FinalWritesTheDigestOfTheStream :
    State.reset.ctxValid = false ∧
    ((streaming 191 191).ctxValid = true ∧ (streaming 191 191).len.toNat < 192) ∧
    ((streaming 192 0).ctxValid = true ∧ 192 ≤ (streaming 192 0).len.toNat ∧ (streaming 192 0).cnt.val < 96) ∧
    (192 ≤ (streaming 287 95).len.toNat ∧ (streaming 287 95).cnt.val < 96) ∧
    ((streaming 288 96).ctxValid = true ∧ 192 ≤ (streaming 288 96).len.toNat ∧ 96 ≤ (streaming 288 96).cnt.val) ∧
    (192 ≤ (streaming 383 191).len.toNat ∧ 96 ≤ (streaming 383 191).cnt.val) := by decide

/-- Nothing between the two FINALs, and a one-shot command and an illegal word between them. -/
theorem test_witness_FinalIsIdempotent :
    shortStream.ctxValid = true ∧
    (∃ t, exec .final shortStream = .next t ∧ ∃ u, exec (.update [0x62]) t = .next u) ∧
    (∀ p ∈ ([] : List Packet), p.cmd ≠ 0x00000001 ∧ p.cmd ≠ 0x00000002) ∧
    ∀ p ∈ [Packet.mk 0x00000006 0 0 [1], Packet.mk 0x00000012 0 0 []], p.cmd ≠ 0x00000001 ∧ p.cmd ≠ 0x00000002 :=
  ⟨rfl, ⟨_, rfl, _, rfl⟩, by decide, by decide⟩

theorem test_witness_Hash128DispatchesOnLength : (zeros 191).length ≤ 191 ∧ 192 ≤ (zeros 192).length := by decide +kernel

theorem test_witness_FailedCommandChangesOnlyTheErrorFields :
    (∃ t, issuePacket ⟨0x00000007, 0, 0, []⟩ busy = .next t ∧ t.err ≠ .ok) ∧
    (∃ t, issuePacket ⟨0x00000003, 0, 0, []⟩ State.reset = .next t ∧ t.err ≠ .ok) ∧
    ∃ t, step { busy with script := [.issue ⟨0x00000003, 0, 0, []⟩] } = .next t ∧ busy.errSeen = true ∧
      isReset (.issue ⟨0x00000003, 0, 0, []⟩) = false :=
  ⟨exists_next (by decide +kernel), exists_next (by decide +kernel), exists_next (by decide +kernel)⟩

theorem test_witness_ErrSeenRecordsEveryFailure :
    (∃ t, issuePacket ⟨0x00000002, 0, 0, []⟩ State.reset = .next t) ∧
      ∃ t, issuePacket ⟨0x00000002, 0, 0, []⟩ shortStream = .next t := ⟨⟨_, rfl⟩, ⟨_, rfl⟩⟩

theorem test_witness_ContextLastsFromInitToReset :
    (∃ t, issuePacket ⟨0x00000001, 1, 2, []⟩ State.reset = .next t) ∧
    (∃ t, issuePacket ⟨0x00000002, 0, 0, [1]⟩ State.reset = .next t ∧ State.reset.ctxValid = false) ∧
    (∃ t, issuePacket ⟨0x00000003, 0, 0, []⟩ State.reset = .next t ∧ State.reset.ctxValid = false) :=
  ⟨⟨_, rfl⟩, ⟨_, rfl, rfl⟩, ⟨_, rfl, rfl⟩⟩

/-- INIT, the last length that fits, and the first that does not. -/
theorem test_witness_LengthCounterNeverWraps :
    (∃ t, issuePacket ⟨0x00000001, 1, 2, []⟩ longStream = .next t) ∧
    (∃ t, issuePacket ⟨0x00000002, 0, 0, [1]⟩ (streaming (2 ^ 64 - 2) 62) = .next t ∧ t.err = .ok) ∧
    (∃ t, issuePacket ⟨0x00000002, 0, 0, [1]⟩ (streaming (2 ^ 64 - 1) 63) = .next t ∧
      (streaming (2 ^ 64 - 1) 63).ctxValid = true ∧
      2 ^ 64 - 1 < (streaming (2 ^ 64 - 1) 63).len.toNat + (Packet.mk 0x00000002 0 0 [1]).msg.length) :=
  ⟨⟨_, rfl⟩, exists_next (by decide +kernel), exists_next (by decide +kernel)⟩

theorem test_shortStream_holds : StreamHolds 1 2 [0x61] shortStream :=
  ⟨by decide, by decide, fun _ => by decide, fun h => absurd h (by decide)⟩

theorem test_longStream_holds : StreamHolds 1 2 (zeros 192) longStream :=
  ⟨rfl, by decide +kernel, fun h => absurd h (by decide +kernel), fun _ => by decide +kernel⟩

/-- A successful UPDATE and a failing one in short form, and FINAL in long form. -/
theorem test_witness_StreamInvariantIsKept :
    (∃ t, exec (.init 1 2) busy = .next t) ∧
    (shortStream.buf.wf ∧ StreamHolds 1 2 [0x61] shortStream ∧
      (∃ t, issuePacket ⟨0x00000002, 0, 0, [0x62]⟩ shortStream = .next t ∧ t.err = .ok) ∧
      (∃ t, issuePacket ⟨0x00000007, 0, 0, []⟩ shortStream = .next t ∧ t.err ≠ .ok)) ∧
    (longStream.buf.wf ∧ StreamHolds 1 2 (zeros 192) longStream ∧
      ∃ t, issuePacket ⟨0x00000003, 0, 0, []⟩ longStream = .next t) :=
  ⟨⟨_, rfl⟩,
    ⟨by decide, test_shortStream_holds, exists_next (by decide +kernel), exists_next (by decide +kernel)⟩,
    ⟨by decide, test_longStream_holds, ⟨_, rfl⟩⟩⟩

theorem test_inv_191 : (streaming 191 191).Inv :=
  ⟨by decide, fun _ => by decide, fun h => absurd h (by decide), fun h => absurd h (by decide), fun h => absurd rfl h⟩

/-- In long form FINAL keeps it; in short form CNT + n = 191 and 192. -/
theorem test_witness_PromotionHappensAtMostOnce :
    (longStream.ctxLong = true ∧ ∃ t, issuePacket ⟨0x00000003, 0, 0, []⟩ longStream = .next t) ∧
    ((streaming 191 191).Inv ∧ (streaming 191 191).ctxLong = false ∧
      (∃ t, exec (.update []) (streaming 191 191) = .next t ∧ t.err = .ok) ∧
      (∃ t, exec (.update [1]) (streaming 191 191) = .next t ∧ t.err = .ok)) :=
  ⟨⟨by decide, _, rfl⟩, test_inv_191, by decide, exists_next (by decide +kernel), exists_next (by decide +kernel)⟩

/-- No fragment, and fragments of 0, 1 and 192 bytes. -/
theorem test_witness_StreamingEqualsOneShot :
    busy.buf.wf ∧ ([] : List (List Byte)).flatten.length ≤ 2 ^ 64 - 1 ∧
      [[], zeros 1, zeros 192].flatten.length ≤ 2 ^ 64 - 1 := by decide +kernel

theorem test_witness_OneShotCommandsLeaveTheStreamAlone :
    (isOneShot (.hash128 [1] 2 3) = true ∧ ∃ t, exec (.hash128 [1] 2 3) longStream = .next t ∧
      (∃ u, exec (.update [1]) longStream = .next u) ∧ ∃ v, exec (.update [1]) t = .next v) ∧
    (isOneShot (.hash64 []) = true ∧ ∃ t, exec (.hash64 []) longStream = .next t) ∧
    (isOneShot (.hash32 []) = true ∧ ∃ t, exec (.hash32 []) longStream = .next t) :=
  ⟨⟨rfl, _, rfl, exec_answers_next _ _, exec_answers_next _ _⟩, ⟨rfl, _, rfl⟩, ⟨rfl, _, rfl⟩⟩

/-- A failure; the commands 3, 2 and 1; no result held and one held. -/
theorem test_witness_ResultRegistersFollowTheirRule :
    (∃ t, issuePacket ⟨0x00000007, 0, 0, []⟩ busy = .next t ∧ t.err ≠ .ok) ∧
    (∃ t, issuePacket ⟨0x00000003, 0, 0, []⟩ busy = .next t ∧ t.err = .ok ∧ 3 ≤ (0x00000003 : CmdWord).toNat) ∧
    (∃ t, issuePacket ⟨0x00000002, 0, 0, []⟩ busy = .next t ∧ t.err = .ok ∧ (0x00000002 : CmdWord).toNat ≤ 2) ∧
    (∃ t, issuePacket ⟨0x00000001, 0, 0, []⟩ busy = .next t ∧ t.err = .ok ∧ (0x00000001 : CmdWord).toNat ≤ 2) ∧
    State.reset.resultValid = false ∧ busy.resultValid = true :=
  ⟨exists_next (by decide +kernel), exists_next (by decide +kernel), exists_next (by decide +kernel),
    exists_next (by decide +kernel), rfl, rfl⟩

theorem test_witness_RegisterMapIsRead : 4 ≤ (0x4 : RegIndex).toNat ∧ 4 ≤ (0xF : RegIndex).toNat := by decide

/-- A result register that holds no value, read twice. -/
theorem test_witness_RegisterReadsHaveNoSideEffect :
    { State.reset with script := [.read 0x1, .read 0x1] }.script = .read 0x1 :: .read 0x1 :: [] := rfl

/-- The smallest and the largest amount and bit. -/
theorem test_witness_RotationMovesEveryBit :
    (rotl64 0x8000000000000001 1).getLsbD ((0 + 1) % 64) = true ∧
      (rotl64 0x8000000000000001 63).getLsbD ((63 + 63) % 64) = true ∧ (1 ≤ 63 ∧ 63 ≤ 63 ∧ 63 < 64) := by decide

/-- One byte and a full word, at the end of a sequence. -/
theorem test_witness_WordsAreAssembledLittleEndian :
    (1 ≤ 1 ∧ 1 ≤ 8 ∧ 8 + 1 ≤ (seqBytes 9 128).length) ∧ (1 ≤ 8 ∧ 8 ≤ 8 ∧ 1 + 8 ≤ (seqBytes 9 128).length) := by decide

theorem test_witness_BlockWordsReadsTwelveWords :
    wordAt (blockWords (seqBytes 96 128)) 0 = memRead (seqBytes 96 128) 0 8 ∧ 0 < 12 ∧ 11 < 12 := by decide +kernel

theorem test_witness_RoundsLoseNoState :
    mix (mixInit 1 2) (zeros 96) = mix (mixInit 1 2) (zeros 96) ∧ endPartial (mixInit 1 2) = endPartial (mixInit 1 2) ∧
      shortMix (shortInit 1 2) = shortMix (shortInit 1 2) ∧ shortEnd (shortInit 1 2) = shortEnd (shortInit 1 2) :=
  ⟨rfl, rfl, rfl, rfl⟩

/-- k = 0 and k = 3. -/
theorem test_witness_InitialStatesReplicateTheSeeds :
    (0 < 4 ∧ wordAt (mixInit 1 2) 0 = 1) ∧ (3 < 4 ∧ wordAt (mixInit 1 2) 10 = 2) := by decide

/-- Tails of 0 and 95 bytes, and the last zero of a tail of 94. -/
theorem test_witness_TailBlockIsTaggedByItsLength :
    ([] : List Byte).length ≤ 95 ∧ (seqBytes 95 0).length ≤ 95 ∧ 94 < (seqBytes 95 0).length ∧
      ((seqBytes 94 0).length ≤ 94 ∧ 94 < 95) ∧ tailBlock (zeros 1) = tailBlock [0] := by decide +kernel

/-- No block and no rest, and one block and the largest rest. -/
theorem test_witness_LongHashMixesEveryBlockInOrder :
    (∀ b ∈ ([] : List (List Byte)), b.length = 96) ∧ (∀ b ∈ [zeros 96], b.length = 96) ∧ (zeros 95).length ≤ 95 := by
  decide +kernel

theorem test_witness_LengthIsInjectedIntoTheTopByteOfD : 0 < 192 ∧ 191 < 192 := by decide

/-- The rows 0, 1, 8, 9 and 15. -/
theorem test_witness_TailTableIsFollowed :
    (zeros 0).length = 0 ∧ (zeros 1).length ≤ 8 ∧ (zeros 8).length ≤ 8 ∧ ¬(zeros 9).length ≤ 8 ∧
      (zeros 15).length ≤ 15 := by decide

/-- The empty message, a pair alone, and the largest short message. -/
theorem test_witness_ShortAbsorbsGroupsPairAndTail :
    (([] : List (List Byte)).flatten ++ [] ++ ([] : List Byte)).length < 192 ∧
      ((zeros 16).length = 16 ∧ (([] : List (List Byte)).flatten ++ zeros 16 ++ []).length < 192) ∧
      ((∀ g ∈ List.replicate 5 (zeros 32), g.length = 32) ∧ (zeros 15).length ≤ 15 ∧
        ((List.replicate 5 (zeros 32)).flatten ++ zeros 16 ++ zeros 15).length < 192) := by decide +kernel

theorem test_witness_GroupAndPairAbsorptionAddWords :
    ∃ a' b' c' d', shortMix #v[1, 2, 3 + memRead (seqBytes 32 128) 0 8, 4 + memRead (seqBytes 32 128) (0 + 8) 8] =
      #v[a', b', c', d'] := ⟨_, _, _, _, rfl⟩

theorem test_witness_ResetLeavesTheResetValues :
    ({ busy with script := [.reset] }.script = .reset :: [] ∧ isReset .reset = true) ∧
      isReset (.resetDuring ⟨0x00000004, 0, 0, [1]⟩) = true := ⟨⟨rfl, rfl⟩, rfl⟩

theorem test_witness_IdleCoreKeepsItsState : busy.script = [] := rfl

/-- A packet, a read of a result that is held, and one of a result that is not: a recorded fault, and a next state. -/
theorem test_witness_NothingTheHostSendsIsRefused :
    { busy with script := [.issue ⟨0xFFFFFFFF, 0, 0, []⟩] }.script = .issue ⟨0xFFFFFFFF, 0, 0, []⟩ :: [] ∧
      (∃ t, step { busy with script := [.read 0x2] } = .next t) ∧
      ∃ v, step { State.reset with script := [.read 0x2] } = .next { State.reset with reads := [.unwritten v] } :=
  ⟨rfl, ⟨_, rfl⟩, _, rfl⟩

theorem test_witness_InvariantIsKeptByEveryStep :
    { streaming 191 191 with script := [.issue ⟨0x00000002, 0, 0, [1]⟩] }.Inv ∧
      ∃ t, step { streaming 191 191 with script := [.issue ⟨0x00000002, 0, 0, [1]⟩] } = .next t ∧ t.ctxLong = true :=
  ⟨⟨by decide, fun _ => by decide, fun h => absurd h (by decide), fun h => absurd h (by decide), fun h => absurd rfl h⟩,
    exists_next (by decide +kernel)⟩

/-- Two different states that agree on what holds a value, in short form, about to run FINAL. -/
theorem test_witness_StateWithoutValueIsNeverObserved :
    ∃ s t : State, s ≠ t ∧ s.Inv ∧ t.Inv ∧ ArchEq s t := by
  refine ⟨{ shortStream with script := [.issue ⟨0x00000003, 0, 0, []⟩] },
    { shortStream with
      script := [.issue ⟨0x00000003, 0, 0, []⟩], buf := [(0, 0x61), (1, 0x55)], resH1 := 9
      S := shortStream.S.set 5 0x77 }, by decide, ?_, ?_, ?_⟩
  · exact ⟨by decide, fun _ => by decide, fun h => absurd h (by decide), fun h => absurd h (by decide), fun h => absurd rfl h⟩
  · exact ⟨by decide, fun _ => by decide, fun h => absurd h (by decide), fun h => absurd h (by decide), fun h => absurd rfl h⟩
  · exact ⟨rfl, rfl, rfl, rfl, rfl, rfl, fun h => absurd h (by decide), fun _ _ => by decide,
      fun _ h => absurd h (by decide), fun _ a h => by
        have : a = 0 := by simp only [shortStream] at h; omega
        subst this; rfl, rfl, rfl, rfl⟩

theorem test_witness_ResultCommandsChangeOnlyTheResult :
    (isOneShot (.hash32 [1]) = true ∧ ∃ t, exec (.hash32 [1]) busy = .next t ∧ t.err = .ok) ∧
      ∃ t, exec .final busy = .next t ∧ t.err = .ok := ⟨⟨rfl, _, rfl, rfl⟩, exists_next (by decide +kernel)⟩

/-- k = 2 and k = 11. -/
theorem test_witness_InitKeepsBufferResultsAndOtherWords :
    (∃ t, exec (.init 5 6) busy = .next t) ∧ (2 ≤ 2 ∧ 11 < 12) := ⟨⟨_, rfl⟩, by decide⟩

/-- A stash, with bytes on both sides of what it stores, and a mix that leaves nothing. -/
theorem test_witness_UpdateStoresOnlyItsBytes :
    ((∃ t, exec (.update [1]) busy = .next t ∧ t.err = .ok) ∧ ¬updateStores [1] busy 0 ∧ ¬updateStores [1] busy 2 ∧
      busy.cnt.val + [(1 : Byte)].length < 192) ∧
    ((∃ t, exec (.update [1]) (streaming 191 191) = .next t ∧ t.err = .ok) ∧ ¬updateStores [1] (streaming 191 191) 0) :=
  ⟨⟨exists_next (by decide +kernel), by simp [updateStores, busy], by simp [updateStores, busy], by decide⟩,
    exists_next (by decide +kernel), by
      rw [updateStores, if_neg (by decide)]; decide⟩

theorem test_witness_UpdateStoresTheUnabsorbedBytes :
    (busy.buf.wf ∧ (∃ t, exec (.update [1]) busy = .next t ∧ t.err = .ok) ∧ busy.cnt.val + [(1 : Byte)].length < 192) ∧
    (shortStream.buf.wf ∧ (∃ t, exec (.update (zeros 192)) shortStream = .next t ∧ t.err = .ok) ∧
      192 ≤ shortStream.cnt.val + (zeros 192).length) :=
  ⟨⟨by decide, exists_next (by decide +kernel), by decide⟩,
    ⟨by decide, exists_next (by decide +kernel), by decide +kernel⟩⟩

theorem test_witness_HashStreamEqualsHash128 :
    busy.buf.wf ∧ (bytesOf (.append (.seq 3 128) (.zeros 192))).length ≤ 2 ^ 64 - 1 := by decide +kernel

end Sys2Proof.Tests
end

/-! SUPPORT. What the decoder can answer, and what a packet and an interaction can do, said once. -/

namespace Sys2Proof.Machine

/-- With RSV = 0 a command word is the number OPC (R54). -/
theorem toNat_of_rsv_eq_zero {w : CmdWord} (h : rsv w = 0) : w.toNat = (opc w).toNat := by
  have hr : w.toNat / 2 ^ 4 % 2 ^ 28 = 0 := by
    simpa [rsv, Nat.shiftRight_eq_div_pow] using congrArg BitVec.toNat h
  simp only [opc, BitVec.extractLsb'_toNat, Nat.shiftRight_zero]
  omega

/-- A word with RSV = 0 is known by its OPC (R54). -/
theorem word_eq_of_opc_eq {w v : CmdWord} (hw : rsv w = 0) (hv : rsv v = 0) (ho : opc w = opc v) : w = v :=
  BitVec.eq_of_toNat_eq (by rw [toNat_of_rsv_eq_zero hw, toNat_of_rsv_eq_zero hv, ho])

/-- The commands the decoder can answer, each with its one word and the packet's operands (R55, R56, R59). -/
theorem decode_command_cases {p : Packet} {i : Instr} (h : decode p = .command i) :
    (p.cmd = 0x00000001 ∧ i = .init p.seed1 p.seed2) ∨
    (p.cmd = 0x00000002 ∧ i = .update p.msg) ∨
    (p.cmd = 0x00000003 ∧ i = .final) ∨
    (p.cmd = 0x00000004 ∧ i = .hash128 p.msg p.seed1 p.seed2) ∨
    (p.cmd = 0x00000005 ∧ i = .hash64 p.msg) ∨
    (p.cmd = 0x00000006 ∧ i = .hash32 p.msg) := by
  unfold decode at h
  split at h
  · cases h
  · rename_i hr
    have word {v : CmdWord} (ho : opc p.cmd = opc v) (hv : rsv v = 0) : p.cmd = v :=
      word_eq_of_opc_eq (Decidable.not_not.mp hr) hv ho
    split at h
    · exact .inl ⟨word ‹_› rfl, (Decoded.command.inj h).symm⟩
    split at h
    · exact .inr (.inl ⟨word ‹_› rfl, (Decoded.command.inj h).symm⟩)
    split at h
    · exact .inr (.inr (.inl ⟨word ‹_› rfl, (Decoded.command.inj h).symm⟩))
    split at h
    · exact .inr (.inr (.inr (.inl ⟨word ‹_› rfl, (Decoded.command.inj h).symm⟩)))
    split at h
    · exact .inr (.inr (.inr (.inr (.inl ⟨word ‹_› rfl, (Decoded.command.inj h).symm⟩))))
    split at h
    · exact .inr (.inr (.inr (.inr (.inr ⟨word ‹_› rfl, (Decoded.command.inj h).symm⟩))))
    · cases h

theorem decode_of_cmd_init {p : Packet} (h : p.cmd = 0x00000001) : decode p = .command (.init p.seed1 p.seed2) := by
  unfold decode; rw [h]; rfl

theorem decode_of_cmd_update {p : Packet} (h : p.cmd = 0x00000002) : decode p = .command (.update p.msg) := by
  unfold decode; rw [h]; rfl

theorem decode_of_cmd_final {p : Packet} (h : p.cmd = 0x00000003) : decode p = .command .final := by
  unfold decode; rw [h]; rfl

/-- A command is read back from the packet that encodes it (R61). -/
@[simp] theorem decode_encode (i : Instr) : decode (encode i) = .command i := by
  cases i <;> simp [encode, cmdWord, decode, rsv, opc]

theorem issuePacket_of_decode {p : Packet} {i : Instr} (h : decode p = .command i) (s : State) :
    issuePacket p s = exec i s := by
  simp only [issuePacket, h]

theorem cmd_of_decode_update {p : Packet} {f : List Byte} (h : decode p = .command (.update f)) :
    p.cmd = 0x00000002 ∧ f = p.msg := by
  simpa using decode_command_cases h

theorem cmd_of_decode_init {p : Packet} {s1 s2 : Word} (h : decode p = .command (.init s1 s2)) :
    p.cmd = 0x00000001 ∧ s1 = p.seed1 ∧ s2 = p.seed2 := by
  simpa using decode_command_cases h

/-- FINAL and the one-shot commands have the words 3 to 6 (R55). -/
theorem three_le_cmd_of_decode {p : Packet} {i : Instr} (h : decode p = .command i)
    (hi : isOneShot i = true ∨ i = .final) : 3 ≤ p.cmd.toNat := by
  rcases decode_command_cases h with ⟨-, rfl⟩ | ⟨-, rfl⟩ | ⟨hw, -⟩ | ⟨hw, -⟩ | ⟨hw, -⟩ | ⟨hw, -⟩
  · simp [isOneShot] at hi
  · simp [isOneShot] at hi
  all_goals rw [hw]; decide

/-- The states a packet leads to, by its command word: a failure, which INIT does not have, or the work of INIT, of
UPDATE, or of a command that writes a result. -/
theorem issuePacket_next_cases {p : Packet} {s t : State} (h : issuePacket p s = .next t) :
    (∃ code, code ≠ .ok ∧ p.cmd ≠ 0x00000001 ∧ t = s.failed code) ∨
    (p.cmd = 0x00000001 ∧ t = (startStream p.seed1 p.seed2 s).completed) ∨
    (p.cmd = 0x00000002 ∧ s.ctxValid = true ∧ s.len.toNat + p.msg.length ≤ 2 ^ 64 - 1 ∧
      t = (absorbFragment p.msg s).completed) ∨
    (3 ≤ p.cmd.toNat ∧ ∃ h1 h2, t = (s.writeResult h1 h2).completed) := by
  by_cases hinit : p.cmd = 0x00000001
  · rw [issuePacket_of_decode (decode_of_cmd_init hinit), exec_init] at h
    exact .inr (.inl ⟨hinit, (Host.Outcome.next.inj h).symm⟩)
  rcases issuePacket_cases p s with ⟨why, -, e⟩ | ⟨i, hd, e⟩
  · exact .inl ⟨.illegalCommand, by decide, hinit, Host.Outcome.next.inj (h.symm.trans e)⟩
  rcases exec_next_cases (e.symm.trans h) with
    ⟨code, hcode, -, ht⟩ | ⟨s1, s2, rfl, -⟩ | ⟨f, rfl, hc, ho, ht⟩ | ⟨h1, h2, hi, ht⟩
  · exact .inl ⟨code, hcode, hinit, ht⟩
  · exact absurd (cmd_of_decode_init hd).1 hinit
  · obtain ⟨hcmd, rfl⟩ := cmd_of_decode_update hd
    exact .inr (.inr (.inl ⟨hcmd, hc, ho, ht⟩))
  · exact .inr (.inr (.inr ⟨three_le_cmd_of_decode hd (hi.imp id And.left), h1, h2, ht⟩))

end Sys2Proof.Machine

/-! SUPPORT. BUF as a list of buffered bytes: what a successful UPDATE leaves in it (R92). -/

namespace Sys2Proof.Machine

theorem Memory.readRange_add (m : Memory) (off a b : Nat) :
    m.readRange off (a + b) = m.readRange off a ++ m.readRange (off + a) b := by
  simp [Memory.readRange, List.range_add, Nat.add_assoc]

/-- Two memories give the same first `n` bytes exactly when each of these bytes reads alike. -/
theorem Memory.readRange_zero_eq_iff {m m' : Memory} {n : Nat} :
    m.readRange 0 n = m'.readRange 0 n ↔ ∀ a, a < n → m.read a = m'.read a := by
  simp [Memory.readRange]

/-- Bytes below a store are read as before it. -/
theorem Memory.readRange_writeRange_below {m : Memory} {n : Nat} (bs : List Byte) (hm : m.wf) :
    (m.writeRange n bs).readRange 0 n = m.readRange 0 n := by
  refine Memory.readRange_congr fun j hj => ?_
  rw [Memory.read_writeRange _ _ _ _ hm.1, if_neg (by omega)]

/-- The mixing branch stores the end of T, which no block took, at `BUF[0]` (R92). -/
theorem mixFragment_buf_eq_drop (f : List Byte) (s : State) :
    (mixFragment f s).buf =
      s.buf.writeRange 0 ((s.joined f).drop (s.cnt.val + f.length - (s.cnt.val + f.length) % 96)) := by
  rw [mixFragment_buf, slice_to_end, State.length_joined]
  congr 2
  omega

/-- What a successful UPDATE leaves buffered is the end of T: all of it where the fragment fits, else what no block
took (R92). -/
theorem absorbFragment_buffered {f : List Byte} {s : State} (hm : s.buf.wf) :
    (absorbFragment f s).buf.readRange 0 (absorbFragment f s).cnt.val =
      (s.joined f).drop (s.cnt.val + f.length - (absorbFragment f s).cnt.val) := by
  have hcnt := absorbFragment_cnt f s
  by_cases fits : s.cnt.val + f.length < 192
  · rw [if_pos fits] at hcnt
    rw [hcnt, absorbFragment_of_fits f s fits, stashFragment_buf, Memory.readRange_add, Nat.zero_add,
      Memory.readRange_writeRange_below f hm, Memory.readRange_writeRange _ _ _ hm.1, Nat.sub_self, List.drop_zero,
      State.joined]
  · rw [if_neg fits] at hcnt
    have hread := Memory.readRange_writeRange s.buf 0
      ((s.joined f).drop (s.cnt.val + f.length - (s.cnt.val + f.length) % 96)) hm.1
    rw [List.length_drop, State.length_joined, Nat.sub_sub_self (Nat.mod_le _ _)] at hread
    rw [hcnt, absorbFragment_of_mixes f s (by omega), mixFragment_buf_eq_drop, hread]

theorem absorbFragment_len_toNat {f : List Byte} {s : State} (h : s.len.toNat + f.length ≤ 2 ^ 64 - 1) :
    (absorbFragment f s).len.toNat = s.len.toNat + f.length := by
  rw [absorbFragment_len, BitVec.toNat_add, BitVec.toNat_ofNat]
  omega

theorem absorbFragment_S_of_fits {f : List Byte} {s : State} (h : s.cnt.val + f.length < 192) :
    (absorbFragment f s).S = s.S := by
  rw [absorbFragment_of_fits f s h, stashFragment_S]

theorem absorbFragment_S_of_mixes {f : List Byte} {s : State} (h : 192 ≤ s.cnt.val + f.length) :
    (absorbFragment f s).S = mixBlocks s.mixStart (s.joined f) ((s.cnt.val + f.length) / 96) := by
  rw [absorbFragment_of_mixes f s h, mixFragment_S, State.length_joined]

end Sys2Proof.Machine

/-! SUPPORT. A state that holds a stream (R28): what its context says of the message, and that UPDATE extends it. -/

namespace Sys2Proof.Machine

/-- What holds of the buffered bytes and the mixed blocks in both forms; in short form no block is mixed. -/
structure AbsorbedPrefix (s1 s2 : Word) (msg : List Byte) (s : State) : Prop where
  cnt_le : s.cnt.val ≤ msg.length
  wholeBlocks : (msg.length - s.cnt.val) % 96 = 0
  buffered : s.buf.readRange 0 s.cnt.val = msg.drop (msg.length - s.cnt.val)
  mixStart : s.mixStart = mixBlocks (mixInit s1 s2) msg ((msg.length - s.cnt.val) / 96)

theorem StreamHolds.absorbedPrefix {s1 s2 : Word} {msg : List Byte} {s : State} (h : StreamHolds s1 s2 msg s) :
    AbsorbedPrefix s1 s2 msg s := by
  by_cases hshort : msg.length < 192
  · obtain ⟨hcnt, hbuf, hseed1, hseed2⟩ := h.shortForm hshort
    have hstart : s.mixStart = mixInit s1 s2 := by
      rw [State.mixStart, if_pos (by rw [h.len]; exact hshort), hseed1, hseed2]
    exact ⟨Nat.le_of_eq hcnt, by simp [hcnt], by rw [hbuf, hcnt, Nat.sub_self, List.drop_zero], by simp [hstart, hcnt]⟩
  · obtain ⟨hgap, hmod, hbuf, hS⟩ := h.longForm (by omega)
    have hstart : s.mixStart = s.S := by rw [State.mixStart, if_neg (by rw [h.len]; exact hshort)]
    exact ⟨by omega, hmod, by rw [hbuf, slice_to_end], by rw [hstart, hS]⟩

/-- T is the part of the extended message that is not mixed yet. -/
theorem AbsorbedPrefix.joined {s1 s2 : Word} {msg : List Byte} {s : State} (h : AbsorbedPrefix s1 s2 msg s)
    (f : List Byte) : s.joined f = (msg ++ f).drop (msg.length - s.cnt.val) := by
  rw [State.joined, h.buffered, List.drop_append_of_le_length (Nat.sub_le _ _)]

/-- The mixing branch goes on where the mixed part of the message ends. -/
theorem AbsorbedPrefix.absorbFragment_S {s1 s2 : Word} {msg f : List Byte} {s : State}
    (h : AbsorbedPrefix s1 s2 msg s) (hmix : 192 ≤ s.cnt.val + f.length) :
    (absorbFragment f s).S =
      mixBlocks (mixInit s1 s2) (msg ++ f) ((msg.length - s.cnt.val) / 96 + (s.cnt.val + f.length) / 96) := by
  have hwhole := h.wholeBlocks
  have hmul : 96 * ((msg.length - s.cnt.val) / 96) = msg.length - s.cnt.val := by omega
  rw [absorbFragment_S_of_mixes hmix, h.mixStart, h.joined, mixBlocks_add, hmul,
    mixBlocks_append_left _ _ _ _ (by omega)]

/-- The stream INIT opens is that of the empty message (R91). -/
theorem startStream_holds (s1 s2 : Word) (s : State) : StreamHolds s1 s2 [] (startStream s1 s2 s) where
  ctxValid := rfl
  len := rfl
  shortForm _ := ⟨rfl, rfl, by simp [wordAt_setWord], by simp [wordAt_setWord]⟩
  longForm h := absurd h (by simp)

/-- What is buffered afterwards is the end of the extended message. -/
theorem AbsorbedPrefix.absorbFragment_buffered {s1 s2 : Word} {msg : List Byte} {s : State}
    (h : AbsorbedPrefix s1 s2 msg s) (hm : s.buf.wf) (f : List Byte) :
    (absorbFragment f s).buf.readRange 0 (absorbFragment f s).cnt.val =
      (msg ++ f).drop ((msg ++ f).length - (absorbFragment f s).cnt.val) := by
  have hle := h.cnt_le
  have hcnt := absorbFragment_cnt f s
  rw [Machine.absorbFragment_buffered hm, h.joined, List.drop_drop, List.length_append]
  congr 1
  split at hcnt <;> omega

/-- A successful UPDATE extends the message of the stream by its fragment (R92). -/
theorem StreamHolds.absorbFragment_holds {s1 s2 : Word} {msg f : List Byte} {s : State} (h : StreamHolds s1 s2 msg s)
    (hm : s.buf.wf) (ho : s.len.toNat + f.length ≤ 2 ^ 64 - 1) :
    StreamHolds s1 s2 (msg ++ f) (absorbFragment f s) := by
  have hp := h.absorbedPrefix
  have hle := hp.cnt_le
  have hwhole := hp.wholeBlocks
  have hcnt := absorbFragment_cnt f s
  have hlen : (msg ++ f).length = msg.length + f.length := List.length_append
  have hbuf := hp.absorbFragment_buffered hm f
  refine ⟨by simp [h.ctxValid], by rw [absorbFragment_len_toNat ho, h.len, hlen], fun hshort => ?_, fun hlong => ?_⟩
  · obtain ⟨hc, -, hseeds⟩ := h.shortForm (by omega)
    have fits : s.cnt.val + f.length < 192 := by omega
    rw [if_pos fits] at hcnt
    refine ⟨by omega, ?_, by rwa [absorbFragment_S_of_fits fits]⟩
    rw [hbuf, hcnt, show (msg ++ f).length - (s.cnt.val + f.length) = 0 by omega, List.drop_zero]
  · rw [slice_to_end]
    by_cases fits : s.cnt.val + f.length < 192
    · have hmsg : 192 ≤ msg.length := Nat.le_of_not_lt fun hshort => by
        have := (h.shortForm hshort).1
        omega
      obtain ⟨hgap, hmod, -, hS⟩ := h.longForm hmsg
      rw [if_pos fits] at hcnt
      have hgap' : (msg ++ f).length - (absorbFragment f s).cnt.val = msg.length - s.cnt.val := by omega
      refine ⟨by omega, by omega, hbuf, ?_⟩
      rw [absorbFragment_S_of_fits fits, hS, hgap', mixBlocks_append_left _ _ _ _ (by omega)]
    · rw [if_neg fits] at hcnt
      refine ⟨by omega, by omega, hbuf, ?_⟩
      rw [hp.absorbFragment_S (by omega)]
      congr 1
      omega

end Sys2Proof.Machine

/-! SUPPORT and proofs. The stream a state holds, packet by packet, and a whole stream from INIT to FINAL (R28, R95). -/

namespace Sys2Proof.Machine

/-- Only the streaming context matters to the stream a state holds. -/
theorem StreamHolds.congr {s1 s2 : Word} {msg : List Byte} {s t : State} (h : StreamHolds s1 s2 msg s)
    (hctx : t.ctxValid = s.ctxValid) (hlen : t.len = s.len) (hcnt : t.cnt = s.cnt) (hbuf : t.buf = s.buf)
    (hS : t.S = s.S) : StreamHolds s1 s2 msg t where
  ctxValid := hctx.trans h.ctxValid
  len := hlen ▸ h.len
  shortForm := by rw [hcnt, hbuf, hS]; exact h.shortForm
  longForm := by rw [hcnt, hbuf, hS]; exact h.longForm

theorem StreamHolds.completed {s1 s2 : Word} {msg : List Byte} {s : State} (h : StreamHolds s1 s2 msg s) :
    StreamHolds s1 s2 msg s.completed := h.congr rfl rfl rfl rfl rfl

/-- A packet that is no INIT keeps the stream, extended where it is a successful UPDATE (R28). -/
theorem StreamHolds.issuePacket {s1 s2 : Word} {msg : List Byte} {p : Packet} {s t : State}
    (h : StreamHolds s1 s2 msg s) (hm : s.buf.wf) (ht : issuePacket p s = .next t) (hinit : p.cmd ≠ 0x00000001) :
    StreamHolds s1 s2 (if p.cmd = 0x00000002 ∧ t.err = .ok then msg ++ p.msg else msg) t := by
  rcases issuePacket_next_cases ht with
    ⟨code, hcode, -, rfl⟩ | ⟨hcmd, -⟩ | ⟨hcmd, -, ho, rfl⟩ | ⟨hcmd, h1, h2, rfl⟩
  · rw [if_neg fun hc => hcode hc.2]
    exact h.congr rfl rfl rfl rfl rfl
  · exact absurd hcmd hinit
  · rw [if_pos ⟨hcmd, rfl⟩]
    exact (h.absorbFragment_holds hm ho).completed
  · rw [if_neg fun hc => by simp [hc.1] at hcmd]
    exact h.congr rfl rfl rfl rfl rfl

/-- Settles O22: INIT opens the empty stream, and the inversion of a packet leaves a case for each thing it can do. -/
theorem streamInvariantIsKept : Obligations.StreamInvariantIsKept := by
  refine ⟨fun s1 s2 s t ht => ?_, fun s1 s2 msg p s t hm h ht hinit => h.issuePacket hm ht hinit⟩
  rw [exec_init] at ht
  exact Host.Outcome.next.inj ht ▸ (startStream_holds s1 s2 s).completed

/-! ## FINAL on a state that holds a stream, and a whole stream -/

/-- The words FINAL ends in long form: a complete buffered block is one more block of the message (R93). -/
theorem StreamHolds.allBlocksMixed {s1 s2 : Word} {msg : List Byte} {s : State} (h : StreamHolds s1 s2 msg s)
    (hlong : 192 ≤ msg.length) :
    (if s.cnt.val ≥ 96 then mix s.S (s.buf.readRange 0 96) else s.S) =
      mixBlocks (mixInit s1 s2) msg (msg.length / 96) := by
  obtain ⟨hgap, hmod, hbuf, hS⟩ := h.longForm hlong
  have hcnt := s.cnt.isLt
  split
  · have hblock : block msg ((msg.length - s.cnt.val) / 96) = s.buf.readRange 0 96 := by
      have hsplit := Memory.readRange_add s.buf 0 96 (s.cnt.val - 96)
      rw [show 96 + (s.cnt.val - 96) = s.cnt.val by omega, hbuf, slice_to_end] at hsplit
      rw [block, slice, show 96 * ((msg.length - s.cnt.val) / 96) = msg.length - s.cnt.val by omega, hsplit]
      exact List.take_left' (by simp)
    rw [show msg.length / 96 = (msg.length - s.cnt.val) / 96 + 1 by omega, mixBlocks_succ, ← hS, hblock]
  · rw [hS, show msg.length / 96 = (msg.length - s.cnt.val) / 96 by omega]

/-- The tail FINAL ends with in long form is the message's last incomplete block (R93). -/
theorem StreamHolds.tail_eq {s1 s2 : Word} {msg : List Byte} {s : State} (h : StreamHolds s1 s2 msg s)
    (hlong : 192 ≤ msg.length) {p : Nat} (hp : p = if s.cnt.val ≥ 96 then 96 else 0) :
    s.buf.readRange p (s.cnt.val - p) = msg.drop (96 * (msg.length / 96)) := by
  obtain ⟨hgap, hmod, hbuf, -⟩ := h.longForm hlong
  have hcnt := s.cnt.isLt
  have hle : p ≤ s.cnt.val := by split at hp <;> omega
  have hsplit := Memory.readRange_add s.buf 0 p (s.cnt.val - p)
  rw [Nat.add_sub_cancel' hle, hbuf, slice_to_end, Nat.zero_add] at hsplit
  have hrest := congrArg (List.drop p) hsplit
  rw [List.drop_left' (by simp), List.drop_drop] at hrest
  rw [← hrest]
  congr 1
  split at hp <;> omega

/-- FINAL computes Hash128 of the message of the stream (R93, R95). -/
theorem StreamHolds.streamDigest_eq {s1 s2 : Word} {msg : List Byte} {s : State} (h : StreamHolds s1 s2 msg s) :
    streamDigest s = hash128 msg s1 s2 := by
  unfold streamDigest hash128
  rw [h.len]
  by_cases hshort : msg.length < 192
  · obtain ⟨hcnt, hbuf, hseed1, hseed2⟩ := h.shortForm hshort
    rw [if_pos hshort, if_pos hshort, ← hcnt, hbuf, hseed1, hseed2]
  · rw [if_neg hshort, if_neg hshort]
    simp only [longStreamDigest, longHash, slice_to_end]
    rw [h.allBlocksMixed (by omega), h.tail_eq (by omega) rfl]

/-- The state in which the command of the next packet executes: the packet is off the script and counted. -/
def State.packetTaken (s : State) (rest : List HostAction) : State := State.counted { s with script := rest }

@[simp] theorem State.packetTaken_errSeen (s : State) (rest : List HostAction) :
    (s.packetTaken rest).errSeen = s.errSeen := rfl
@[simp] theorem State.packetTaken_script (s : State) (rest : List HostAction) :
    (s.packetTaken rest).script = rest := rfl

theorem StreamHolds.packetTaken {s1 s2 : Word} {msg : List Byte} {s : State} (h : StreamHolds s1 s2 msg s)
    (rest : List HostAction) : StreamHolds s1 s2 msg (s.packetTaken rest) := h.congr rfl rfl rfl rfl rfl

/-- The step of a packet that encodes a command is that command. -/
theorem step_issue_encode {s : State} {i : Instr} {rest : List HostAction}
    (h : s.script = .issue (encode i) :: rest) : step s = exec i (s.packetTaken rest) := by
  rw [step_cons h]
  exact issuePacket_of_decode (decode_encode i) _

/-- `t` is what a host sees when the stream of `msg` that `s` began ends with FINAL: no failure, the digest of the
message, and the context still holding it. -/
structure StreamFinished (s1 s2 : Word) (msg : List Byte) (s t : State) : Prop where
  holds : StreamHolds s1 s2 msg t
  resH1 : t.resH1 = (hash128 msg s1 s2).1
  resH2 : t.resH2 = (hash128 msg s1 s2).2
  resultValid : t.resultValid = true
  err : t.err = .ok
  errSeen : t.errSeen = s.errSeen
  script : t.script = []

/-- The script of a stream after its INIT. -/
def updatesThenFinal (fragments : List (List Byte)) : List HostAction :=
  fragments.map (fun f => .issue (encode (.update f))) ++ [.issue (encode .final)]

/-- The rest of a stream's script, from a state that holds the message so far. -/
theorem run_updates_final {s1 s2 : Word} (fragments : List (List Byte)) {msg : List Byte} {s : State}
    (h : StreamHolds s1 s2 msg s) (hm : s.buf.wf) (hlen : (msg ++ fragments.flatten).length ≤ 2 ^ 64 - 1)
    (hscript : s.script = updatesThenFinal fragments) :
    ∃ t : State, Sys2Proof.core.run (fragments.length + 1) s = .next t ∧
      StreamFinished s1 s2 (msg ++ fragments.flatten) s t := by
  induction fragments generalizing msg s with
  | nil =>
    have htaken := h.packetTaken []
    have hdigest := htaken.streamDigest_eq
    refine ⟨_, run_succ ((step_issue_encode hscript).trans (exec_final_ok _ h.ctxValid)), ?_⟩
    rw [List.flatten_nil, List.append_nil]
    exact ⟨htaken.congr rfl rfl rfl rfl rfl, by simp [hdigest], by simp [hdigest], rfl, rfl, rfl, rfl⟩
  | cons f fragments ih =>
    simp only [List.flatten_cons, ← List.append_assoc] at hlen ⊢
    have ho : s.len.toNat + f.length ≤ 2 ^ 64 - 1 := by
      simp only [List.length_append] at hlen
      rw [h.len]
      omega
    have hnext := (h.packetTaken (updatesThenFinal fragments)).absorbFragment_holds hm ho
    obtain ⟨t, hrun, hfin⟩ := ih hnext.completed (absorbFragment_buf_wf hm) hlen (by simp)
    refine ⟨t, (run_succ ((step_issue_encode hscript).trans (exec_update_ok f _ h.ctxValid ho))).trans hrun, ?_⟩
    exact { hfin with errSeen := by simpa using hfin.errSeen }

/-- A whole stream, from every state whose BUF is in canonical form (R95). -/
theorem run_streamScript (s1 s2 : Word) (fragments : List (List Byte)) {s : State} (hm : s.buf.wf)
    (hlen : fragments.flatten.length ≤ 2 ^ 64 - 1) :
    ∃ t : State,
      Sys2Proof.core.run (fragments.length + 2) { s with script := streamScript s1 s2 fragments } = .next t ∧
        StreamFinished s1 s2 fragments.flatten s t := by
  have hopen := startStream_holds s1 s2 (s.packetTaken (updatesThenFinal fragments))
  obtain ⟨t, hrun, hfin⟩ := run_updates_final fragments hopen.completed hm hlen rfl
  exact ⟨t, (run_succ ((step_issue_encode rfl).trans (exec_init s1 s2 _))).trans hrun,
    { hfin with errSeen := hfin.errSeen }⟩

/-- Settles O24, by induction over the fragments: each UPDATE extends the stream held, and FINAL hashes it. -/
theorem streamingEqualsOneShot : Obligations.StreamingEqualsOneShot := by
  intro s1 s2 fragments s hm hlen
  obtain ⟨t, hrun, hfin⟩ := run_streamScript s1 s2 fragments hm hlen
  exact ⟨t, hrun, hfin.resH1, hfin.resH2, hfin.resultValid, hfin.err, hfin.errSeen, hfin.script⟩

end Sys2Proof.Machine

/-! SUPPORT and proofs. The invariant of the machine: it holds at reset and every step keeps it. -/

namespace Sys2Proof.Machine

theorem State.Inv.failed {s : State} (h : s.Inv) (code : ErrCode) : (s.failed code).Inv :=
  ⟨h.bufWf, h.shortForm, h.longForm, h.noContext, fun _ => ⟨rfl, rfl⟩⟩

theorem State.Inv.startStream_completed {s : State} (h : s.Inv) (s1 s2 : Word) : (startStream s1 s2 s).completed.Inv :=
  ⟨h.bufWf, fun _ => rfl, fun hlong => absurd hlong (by simp), fun hc => absurd hc (by simp),
    fun he => absurd rfl he⟩

theorem State.Inv.writeResult_completed {s : State} (h : s.Inv) (h1 h2 : Word) : (s.writeResult h1 h2).completed.Inv :=
  ⟨h.bufWf, h.shortForm, h.longForm, h.noContext, fun he => absurd rfl he⟩

theorem State.Inv.resetCore (s : State) : (resetCore s).Inv :=
  ⟨⟨List.Pairwise.nil, by simp⟩, fun _ => rfl, fun hlong => absurd hlong (by simp), fun _ => rfl,
    fun he => absurd rfl he⟩

/-- The invariant says nothing of the host's side. -/
theorem State.Inv.withHost {s : State} (h : s.Inv) (script : List HostAction) (reads : List RegValue) (issued : Nat) :
    State.Inv { s with script, reads, issued } :=
  ⟨h.bufWf, h.shortForm, h.longForm, h.noContext, h.failure⟩

/-- A successful UPDATE keeps the invariant: LEN and CNT grow alike where the fragment fits, and the mixing branch
takes whole blocks (R92). -/
theorem State.Inv.absorbFragment_completed {s : State} (h : s.Inv) {f : List Byte} (hctx : s.ctxValid = true)
    (ho : s.len.toNat + f.length ≤ 2 ^ 64 - 1) : (absorbFragment f s).completed.Inv := by
  have hlen := absorbFragment_len_toNat ho
  have hcnt := absorbFragment_cnt f s
  have hshort := h.shortForm
  have hlong := h.longForm
  refine ⟨absorbFragment_buf_wf h.bufWf, fun hs => ?_, fun hl => ?_, fun hc => ?_, fun he => absurd rfl he⟩
  · simp only [State.completed_len, State.completed_cnt, hlen] at hs ⊢
    rw [hcnt, if_pos (by have := hshort (by omega); omega), hshort (by omega)]
  · simp only [State.completed_len, State.completed_cnt, hlen] at hl ⊢
    split at hcnt <;> omega
  · simp [hctx] at hc

theorem issuePacket_keeps_inv {p : Packet} {s t : State} (h : s.Inv) (ht : issuePacket p s = .next t) : t.Inv := by
  rcases issuePacket_next_cases ht with
    ⟨code, -, -, rfl⟩ | ⟨-, rfl⟩ | ⟨-, hctx, ho, rfl⟩ | ⟨-, h1, h2, rfl⟩
  · exact h.failed code
  · exact h.startStream_completed p.seed1 p.seed2
  · exact h.absorbFragment_completed hctx ho
  · exact h.writeResult_completed h1 h2

theorem hostAct_keeps_inv {a : HostAction} {s t : State} (h : s.Inv) (ht : hostAct a s = .next t) : t.Inv := by
  cases a with
  | reset => exact Host.Outcome.next.inj ht ▸ State.Inv.resetCore _
  | resetDuring p => exact Host.Outcome.next.inj ht ▸ State.Inv.resetCore _
  | issue p => exact issuePacket_keeps_inv (h.withHost _ _ _) ht
  | read idx => exact Host.Outcome.next.inj ht ▸ h.withHost _ _ _

/-- Settles O50: an idle step changes nothing, and every interaction keeps the invariant. -/
theorem invariantIsKeptByEveryStep : Obligations.InvariantIsKeptByEveryStep := by
  intro s t h ht
  rcases hs : s.script with _ | ⟨a, rest⟩
  · rw [step_nil hs] at ht
    exact Host.Outcome.next.inj ht ▸ h
  · rw [step_cons hs] at ht
    exact hostAct_keeps_inv (h.withHost _ _ _) ht

/-- Settles O49: the state after reset is what a reset leaves. -/
theorem invariantHoldsAtReset : Obligations.InvariantHoldsAtReset := State.Inv.resetCore State.reset

end Sys2Proof.Machine

/-! SUPPORT and proofs. Two states that agree on everything with an architectural value read alike and step alike. -/

namespace Sys2Proof.Machine

/-! What may be read of such a pair. -/

theorem ArchEq.status_eq {s t : State} (h : ArchEq s t) : t.status = s.status := by
  simp only [State.status, State.ctxLong, h.ctxValid, h.len, h.cnt, h.resultValid, h.err, h.errSeen]

/-- A result register shows its bits only while RESULT_VALID = 1, where they agree (R33). -/
theorem ArchEq.resultReg_eq {s t : State} (h : ArchEq s t) (idx : RegIndex) {b b' : Word}
    (hb : s.resultValid = true → b' = b) : t.resultReg idx b' = s.resultReg idx b := by
  rcases hv : s.resultValid
  · rw [State.resultReg_of_invalid hv, State.resultReg_of_invalid (h.resultValid.trans hv), h.issued]
  · rw [State.resultReg_of_valid hv, State.resultReg_of_valid (h.resultValid.trans hv), hb hv]

theorem ArchEq.readReg_eq {s t : State} (h : ArchEq s t) (idx : RegIndex) : t.readReg idx = s.readReg idx := by
  simp only [State.readReg, h.status_eq, h.len, h.resultReg_eq _ fun hv => (h.results hv).1,
    h.resultReg_eq _ fun hv => (h.results hv).2]

theorem ArchEq.readRange_eq {s t : State} (h : ArchEq s t) (hctx : s.ctxValid = true) {off n : Nat}
    (hn : off + n ≤ s.cnt.val) : t.buf.readRange off n = s.buf.readRange off n :=
  Memory.readRange_congr fun j hj => h.buffered hctx _ (by omega)

theorem ArchEq.joined_eq {s t : State} (h : ArchEq s t) (hctx : s.ctxValid = true) (f : List Byte) :
    t.joined f = s.joined f := by
  rw [State.joined, State.joined, h.cnt, h.readRange_eq hctx (by omega)]

theorem ArchEq.mixStart_eq {s t : State} (h : ArchEq s t) (hctx : s.ctxValid = true) : t.mixStart = s.mixStart := by
  unfold State.mixStart
  rw [h.len]
  split
  · rw [(h.seeds hctx ‹_›).1, (h.seeds hctx ‹_›).2]
  · exact h.mixState hctx (by omega)

/-- FINAL reads the seeds or S by the form, and BUF below CNT only. -/
theorem ArchEq.streamDigest_eq {s t : State} (h : ArchEq s t) (hs : s.Inv) (hctx : s.ctxValid = true) :
    streamDigest t = streamDigest s := by
  unfold streamDigest
  rw [h.len]
  split
  · rw [h.readRange_eq hctx (by rw [hs.shortForm ‹_›]; omega), (h.seeds hctx ‹_›).1, (h.seeds hctx ‹_›).2]
  · unfold longStreamDigest
    rw [h.cnt, h.mixState hctx (by omega)]
    by_cases hc : s.cnt.val ≥ 96
    · simp only [if_pos hc, h.readRange_eq hctx (show 0 + 96 ≤ s.cnt.val by omega),
        h.readRange_eq hctx (show 96 + (s.cnt.val - 96) ≤ s.cnt.val by omega)]
    · simp only [if_neg hc, h.readRange_eq hctx (show 0 + (s.cnt.val - 0) ≤ s.cnt.val by omega)]

/-! What the operations of the core keep of it. -/

theorem ArchEq.refl (s : State) : ArchEq s s :=
  ⟨rfl, rfl, rfl, rfl, rfl, rfl, fun _ => ⟨rfl, rfl⟩, fun _ _ => ⟨rfl, rfl⟩, fun _ _ => rfl, fun _ _ _ => rfl, rfl, rfl,
    rfl⟩

theorem ArchEq.failed {s t : State} (h : ArchEq s t) (code : ErrCode) : ArchEq (s.failed code) (t.failed code) :=
  { h with resultValid := rfl, err := rfl, errSeen := rfl, results := fun hv => absurd hv (by simp) }

theorem ArchEq.completed {s t : State} (h : ArchEq s t) : ArchEq s.completed t.completed :=
  { h with err := rfl }

theorem ArchEq.writeResult {s t : State} (h : ArchEq s t) (h1 h2 : Word) :
    ArchEq (s.writeResult h1 h2) (t.writeResult h1 h2) :=
  { h with resultValid := rfl, results := fun _ => ⟨rfl, rfl⟩ }

/-- INIT writes the only two words of S that short form reads, and leaves no byte buffered. -/
theorem ArchEq.startStream {s t : State} (h : ArchEq s t) (s1 s2 : Word) :
    ArchEq (startStream s1 s2 s) (startStream s1 s2 t) :=
  { h with
    ctxValid := rfl, len := rfl, cnt := rfl
    seeds := fun _ _ => by simp [wordAt_setWord]
    mixState := fun _ hlong => absurd hlong (by simp)
    buffered := fun _ a ha => absurd ha (by simp) }

/-- A reset gives every piece of core state its reset value. -/
theorem ArchEq.resetCore {s t : State} (h : ArchEq s t) : ArchEq (resetCore s) (resetCore t) :=
  { ArchEq.refl State.reset with script := h.script, reads := h.reads, issued := h.issued }

theorem ArchEq.absorbFragment_cnt_eq {s t : State} (h : ArchEq s t) (f : List Byte) :
    (absorbFragment f t).cnt = (absorbFragment f s).cnt :=
  Fin.ext (by rw [absorbFragment_cnt, absorbFragment_cnt, h.cnt])

/-- The mixing branch computes S from T and, by the form, the seeds or S. -/
theorem ArchEq.absorbFragment_S_eq {s t : State} (h : ArchEq s t) (hctx : s.ctxValid = true) {f : List Byte}
    (hmix : 192 ≤ s.cnt.val + f.length) : (absorbFragment f t).S = (absorbFragment f s).S := by
  rw [absorbFragment_S_of_mixes hmix, absorbFragment_S_of_mixes (by rw [h.cnt]; exact hmix), h.mixStart_eq hctx,
    h.joined_eq hctx, h.cnt]

/-- A successful UPDATE leaves the same bytes buffered, whatever BUF held beyond CNT. -/
theorem ArchEq.absorbFragment_buffered {s t : State} (h : ArchEq s t) (hs : s.buf.wf) (ht : t.buf.wf)
    (hctx : s.ctxValid = true) (f : List Byte) :
    ∀ a, a < (absorbFragment f s).cnt.val → (absorbFragment f t).buf.read a = (absorbFragment f s).buf.read a := by
  rw [← Memory.readRange_zero_eq_iff, Machine.absorbFragment_buffered hs, ← h.absorbFragment_cnt_eq f,
    Machine.absorbFragment_buffered ht, h.joined_eq hctx, h.cnt]

/-- UPDATE keeps the agreement: where the fragment fits, S and the form stay (R29); where it is mixed, S is computed
from what agrees. -/
theorem ArchEq.absorbFragment {s t : State} (h : ArchEq s t) (hs : s.Inv) (ht : t.Inv) (hctx : s.ctxValid = true)
    {f : List Byte} (ho : s.len.toNat + f.length ≤ 2 ^ 64 - 1) :
    ArchEq (absorbFragment f s) (absorbFragment f t) := by
  have hlen := absorbFragment_len_toNat ho
  refine ⟨by simp [h.ctxValid], by simp [h.len], h.absorbFragment_cnt_eq f, by simp [h.resultValid], by simp [h.err],
    by simp [h.errSeen], by simpa using h.results, fun _ hshort => ?_, fun _ hlong => ?_,
    fun _ => h.absorbFragment_buffered hs.bufWf ht.bufWf hctx f, by simp [h.script], by simp [h.reads],
    by simp [h.issued]⟩
  · by_cases fits : s.cnt.val + f.length < 192
    · rw [absorbFragment_S_of_fits fits, absorbFragment_S_of_fits (by rw [h.cnt]; exact fits)]
      exact h.seeds hctx (by omega)
    · rw [h.absorbFragment_S_eq hctx (by omega)]
      exact ⟨rfl, rfl⟩
  · by_cases fits : s.cnt.val + f.length < 192
    · have hold : 192 ≤ s.len.toNat := Nat.le_of_not_lt fun hshort => by
        have := hs.shortForm hshort
        omega
      rw [absorbFragment_S_of_fits fits, absorbFragment_S_of_fits (by rw [h.cnt]; exact fits), h.mixState hctx hold]
    · exact h.absorbFragment_S_eq hctx (by omega)

/-! What every interaction keeps of it. -/

/-- Both outcomes are next states, and these agree. -/
def BothNextArchEq (o o' : Outcome) : Prop := ∃ s t, o = .next s ∧ o' = .next t ∧ ArchEq s t

theorem ArchEq.bothNext {s t : State} (h : ArchEq s t) : BothNextArchEq (.next s) (.next t) := ⟨s, t, rfl, rfl, h⟩

theorem ArchEq.exec_update {s t : State} (h : ArchEq s t) (hs : s.Inv) (ht : t.Inv) (f : List Byte) :
    BothNextArchEq (exec (.update f) s) (exec (.update f) t) := by
  rcases exec_update_cases f s with ⟨hc, e⟩ | ⟨hc, ho, e⟩ | ⟨hc, ho, e⟩ <;> rw [e]
  · rw [exec_update_noContext f t (h.ctxValid.trans hc)]
    exact (h.failed _).bothNext
  · rw [exec_update_overflow f t (h.ctxValid.trans hc) (by rw [h.len]; exact ho)]
    exact (h.failed _).bothNext
  · rw [exec_update_ok f t (h.ctxValid.trans hc) (by rw [h.len]; exact ho)]
    exact (h.absorbFragment hs ht hc ho).completed.bothNext

theorem ArchEq.exec_final {s t : State} (h : ArchEq s t) (hs : s.Inv) :
    BothNextArchEq (exec .final s) (exec .final t) := by
  rcases exec_final_cases s with ⟨hc, e⟩ | ⟨hc, e⟩ <;> rw [e]
  · rw [exec_final_noContext t (h.ctxValid.trans hc)]
    exact (h.failed _).bothNext
  · rw [exec_final_ok t (h.ctxValid.trans hc), h.streamDigest_eq hs hc]
    exact (h.writeResult _ _).completed.bothNext

theorem ArchEq.exec {s t : State} (h : ArchEq s t) (hs : s.Inv) (ht : t.Inv) (i : Instr) :
    BothNextArchEq (exec i s) (exec i t) := by
  cases i with
  | init s1 s2 => exact (h.startStream s1 s2).completed.bothNext
  | update f => exact h.exec_update hs ht f
  | final => exact h.exec_final hs
  | hash128 m s1 s2 => exact (h.writeResult _ _).completed.bothNext
  | hash64 m => exact (h.writeResult _ _).completed.bothNext
  | hash32 m => exact (h.writeResult _ _).completed.bothNext

theorem ArchEq.issuePacket {s t : State} (h : ArchEq s t) (hs : s.Inv) (ht : t.Inv) (p : Packet) :
    BothNextArchEq (issuePacket p s) (issuePacket p t) := by
  rcases hd : decode p with i | why
  · rw [issuePacket_of_decode hd, issuePacket_of_decode hd]
    exact h.exec hs ht i
  · simp only [Machine.issuePacket, hd]
    exact (h.failed _).bothNext

theorem ArchEq.counted {s t : State} (h : ArchEq s t) : ArchEq s.counted t.counted :=
  { h with issued := congrArg (· + 1) h.issued }

theorem ArchEq.hostAct {s t : State} (h : ArchEq s t) (hs : s.Inv) (ht : t.Inv) (a : HostAction) :
    BothNextArchEq (hostAct a s) (hostAct a t) := by
  cases a with
  | reset => exact h.counted.resetCore.bothNext
  | resetDuring p => exact h.counted.resetCore.bothNext
  | issue p => exact h.counted.issuePacket (hs.withHost _ _ _) (ht.withHost _ _ _) p
  | read idx => exact ArchEq.bothNext { h with reads := by rw [h.reads, h.readReg_eq] }

/-- Settles O51: reads see only what agrees, and every interaction computes its next state from it. -/
theorem stateWithoutValueIsNeverObserved : Obligations.StateWithoutValueIsNeverObserved := by
  intro s t hs ht h
  refine ⟨h.readReg_eq, ?_⟩
  rcases hscript : s.script with _ | ⟨a, rest⟩
  · exact ⟨s, t, step_nil hscript, step_nil (h.script.trans hscript), h⟩
  · rw [step_cons hscript, step_cons (h.script.trans hscript)]
    have hrest : ArchEq { s with script := rest } { t with script := rest } := { h with script := rfl }
    exact hrest.hostAct (hs.withHost _ _ _) (ht.withHost _ _ _) a

end Sys2Proof.Machine

/-! SUPPORT and proofs. STATUS and the register map (R30, R31, R33, R34). -/

namespace Sys2Proof.Machine

theorem ErrCode.code_toNat_le (e : ErrCode) : e.code.toNat ≤ 3 := by
  cases e <;> decide

/-- The low byte of STATUS, where no two fields share a bit (R31). -/
theorem statusLowByte_toNat (e : ErrCode) (seen valid long ctx : Bool) :
    ((e.code.setWidth 32 <<< 4) ||| (statusBit seen <<< 3) ||| (statusBit valid <<< 2) ||| (statusBit long <<< 1) |||
      statusBit ctx).toNat =
      2 ^ 4 * e.code.toNat + 2 ^ 3 * seen.toNat + 2 ^ 2 * valid.toNat + 2 * long.toNat + ctx.toNat := by
  cases e <;> revert seen valid long ctx <;> decide

theorem State.statusFields_lt (s : State) :
    s.cnt.val < 192 ∧ s.err.code.toNat ≤ 3 ∧ s.errSeen.toNat < 2 ∧ s.resultValid.toNat < 2 ∧ s.ctxLong.toNat < 2 ∧
      s.ctxValid.toNat < 2 :=
  ⟨s.cnt.isLt, s.err.code_toNat_le, s.errSeen.toNat_lt, s.resultValid.toNat_lt, s.ctxLong.toNat_lt,
    s.ctxValid.toNat_lt⟩

/-- STATUS as the sum of its fields (R32). -/
theorem State.status_toNat (s : State) :
    s.status.toNat =
      2 ^ 8 * s.cnt.val + (2 ^ 4 * s.err.code.toNat + 2 ^ 3 * s.errSeen.toNat + 2 ^ 2 * s.resultValid.toNat +
        2 * s.ctxLong.toNat + s.ctxValid.toNat) := by
  obtain ⟨hcnt, hcode, hseen, hvalid, hlong, hctx⟩ := s.statusFields_lt
  have hlow := statusLowByte_toNat s.err s.errSeen s.resultValid s.ctxLong s.ctxValid
  have hhigh : (BitVec.ofNat 32 s.cnt.val <<< 8).toNat = s.cnt.val <<< 8 := by
    simp only [BitVec.toNat_shiftLeft, BitVec.toNat_ofNat, Nat.shiftLeft_eq]
    omega
  rw [State.status]
  simp only [BitVec.or_assoc] at hlow ⊢
  rw [BitVec.toNat_or, hlow, hhigh, ← Nat.shiftLeft_add_eq_or_of_lt (by omega), Nat.shiftLeft_eq, Nat.mul_comm]

/-- Settles O27: STATUS is the sum of its fields, so each one is a quotient and a remainder of it. -/
theorem statusHoldsEveryFieldAtItsPlace : Obligations.StatusHoldsEveryFieldAtItsPlace := by
  refine ⟨fun s => ?_, by decide⟩
  have hsum := s.status_toNat
  obtain ⟨hcnt, hcode, hseen, hvalid, hlong, hctx⟩ := s.statusFields_lt
  simp only [← BitVec.toNat_inj, BitVec.extractLsb'_toNat, BitVec.toNat_ofBool, Nat.shiftRight_eq_div_pow]
  rw [hsum]
  refine ⟨?_, ?_, ?_, ?_, ?_, hcode, ?_, ?_⟩
  · omega
  · show _ = s.ctxLong.toNat
    omega
  · omega
  · omega
  · omega
  · omega
  · show _ = 0
    omega

/-- STATUS reads 0 after every reset (R36). -/
theorem resetCore_status (s : State) : (resetCore s).status = 0 :=
  (show _ = State.reset.status from rfl).trans (by decide)

theorem State.readReg_status (s : State) : s.readReg 0x0 = .bits32 s.status := rfl
theorem State.readReg_resH1 (s : State) : s.readReg 0x1 = s.resultReg 0x1 s.resH1 := rfl
theorem State.readReg_resH2 (s : State) : s.readReg 0x2 = s.resultReg 0x2 s.resH2 := rfl
theorem State.readReg_len (s : State) : s.readReg 0x3 = .bits64 s.len := rfl

/-- The reserved indices read 0 (R34). -/
theorem State.readReg_reserved (s : State) {idx : RegIndex} (h : 4 ≤ idx.toNat) : s.readReg idx = .bits64 0 := by
  have hne {j : RegIndex} (hj : j.toNat < 4) : idx ≠ j := fun e => by subst e; omega
  rw [State.readReg, if_neg (hne (by decide)), if_neg (hne (by decide)), if_neg (hne (by decide)),
    if_neg (hne (by decide))]

/-- Settles O28: each index by its own equation. -/
theorem registerMapIsRead : Obligations.RegisterMapIsRead := fun s =>
  ⟨s.readReg_status, s.readReg_resH1, s.readReg_resH2, s.readReg_len, fun _ h => s.readReg_reserved h⟩

/-- Settles O26: a failure clears RESULT_VALID, FINAL and the one-shot commands set it, INIT and UPDATE keep it; the
reads are the two cases of a result register. -/
theorem resultRegistersFollowTheirRule : Obligations.ResultRegistersFollowTheirRule := by
  refine ⟨fun p s t h => ?_, fun s hv => ?_, fun s hv => ?_⟩
  · rcases issuePacket_next_cases h with
      ⟨code, hcode, -, rfl⟩ | ⟨hcmd, rfl⟩ | ⟨hcmd, -, -, rfl⟩ | ⟨hcmd, h1, h2, rfl⟩
    · exact ⟨fun _ => rfl, fun e => absurd e hcode, fun e => absurd e hcode⟩
    · exact ⟨fun e => absurd rfl e, fun _ hge => by simp [hcmd] at hge, fun _ _ => ⟨rfl, rfl, rfl⟩⟩
    · exact ⟨fun e => absurd rfl e, fun _ hge => by simp [hcmd] at hge, fun _ _ => ⟨by simp, by simp, by simp⟩⟩
    · exact ⟨fun e => absurd rfl e, fun _ _ => rfl, fun _ hle => by omega⟩
  · refine ⟨Config.unwrittenResult 0x1 s.issued, Config.unwrittenResult 0x2 s.issued, ?_, ?_⟩
    · rw [hostRead_eq, State.readReg_resH1, State.resultReg_of_invalid hv]
    · rw [hostRead_eq, State.readReg_resH2, State.resultReg_of_invalid hv]
  · constructor
    · rw [hostRead_eq, State.readReg_resH1, State.resultReg_of_valid hv]
    · rw [hostRead_eq, State.readReg_resH2, State.resultReg_of_valid hv]

end Sys2Proof.Machine

/-! Proofs. The streaming context and the registers, packet by packet. -/

namespace Sys2Proof.Machine

/-- Settles O20: of the things a packet can do, only INIT's work writes CTX_VALID. -/
theorem contextLastsFromInitToReset : Obligations.ContextLastsFromInitToReset := by
  refine ⟨fun p s t h => ?_, fun s => ⟨_, rfl, rfl⟩, fun p s t h hcmd hc => ?_⟩
  · rcases issuePacket_next_cases h with
      ⟨code, -, hcmd, rfl⟩ | ⟨hcmd, rfl⟩ | ⟨hcmd, -, -, rfl⟩ | ⟨hcmd, h1, h2, rfl⟩
    · rw [decide_eq_false hcmd, Bool.or_false, State.failed_ctxValid]
    · simp [hcmd]
    · simp [hcmd]
    · have hinit : p.cmd ≠ 0x00000001 := fun e => by simp [e] at hcmd
      rw [decide_eq_false hinit, Bool.or_false, State.completed_ctxValid, State.writeResult_ctxValid]
  · have e : issuePacket p s = .next (s.failed .noContext) := by
      rcases hcmd with hcmd | hcmd
      · rw [issuePacket_of_decode (decode_of_cmd_update hcmd), exec_update_noContext _ _ hc]
      · rw [issuePacket_of_decode (decode_of_cmd_final hcmd), exec_final_noContext _ hc]
    obtain rfl := Host.Outcome.next.inj (h.symm.trans e)
    exact ⟨rfl, rfl⟩

/-- Settles O21: only INIT's and UPDATE's work writes LEN, and UPDATE's check leaves no sum that wraps. -/
theorem lengthCounterNeverWraps : Obligations.LengthCounterNeverWraps := by
  intro p s t h
  refine ⟨?_, fun hcmd hc ho => ?_⟩
  · rcases issuePacket_next_cases h with
      ⟨code, hcode, hcmd, rfl⟩ | ⟨hcmd, rfl⟩ | ⟨hcmd, -, ho, rfl⟩ | ⟨hcmd, h1, h2, rfl⟩
    · rw [if_neg hcmd, if_neg fun e => hcode e.2, State.failed_len]
    · rw [if_pos hcmd]
      rfl
    · rw [if_neg (by simp [hcmd]), if_pos ⟨hcmd, rfl⟩, State.completed_len, absorbFragment_len_toNat ho]
    · rw [if_neg fun e => by simp [e] at hcmd, if_neg fun e => by simp [e.1] at hcmd]
      rfl
  · rw [issuePacket_of_decode (decode_of_cmd_update hcmd), exec_update_overflow _ _ hc ho] at h
    obtain rfl := Host.Outcome.next.inj h
    rfl

theorem State.ctxLong_eq_true_iff (s : State) : s.ctxLong = true ↔ s.ctxValid = true ∧ 192 ≤ s.len.toNat := by
  simp [State.ctxLong]

/-- A successful UPDATE never leads back to short form. -/
theorem absorbFragment_keeps_ctxLong {f : List Byte} {s : State} (h : s.ctxLong = true)
    (ho : s.len.toNat + f.length ≤ 2 ^ 64 - 1) : (absorbFragment f s).ctxLong = true := by
  rw [State.ctxLong_eq_true_iff] at h ⊢
  rw [absorbFragment_len_toNat ho]
  exact ⟨by simp [h.1], by omega⟩

/-- A successful UPDATE has a context, its sum fits in LEN, and it did its work. -/
theorem exec_update_of_ok {f : List Byte} {s t : State} (h : exec (.update f) s = .next t) (hok : t.err = .ok) :
    s.ctxValid = true ∧ s.len.toNat + f.length ≤ 2 ^ 64 - 1 ∧ t = (absorbFragment f s).completed := by
  rcases exec_update_cases f s with ⟨-, e⟩ | ⟨-, -, e⟩ | ⟨hc, ho, e⟩ <;>
    obtain rfl := Host.Outcome.next.inj (h.symm.trans e)
  · cases hok
  · cases hok
  · exact ⟨hc, ho, rfl⟩

/-- Settles O23: LEN only grows but for INIT, and in short form it is CNT. -/
theorem promotionHappensAtMostOnce : Obligations.PromotionHappensAtMostOnce := by
  refine ⟨State.ctxLong_eq_true_iff, fun p s t h hinit hlong => ?_, fun f s t hs hshort h hok => ?_⟩
  · rcases issuePacket_next_cases h with
      ⟨code, -, -, rfl⟩ | ⟨hcmd, -⟩ | ⟨-, -, ho, rfl⟩ | ⟨-, h1, h2, rfl⟩
    · exact hlong
    · exact absurd hcmd hinit
    · exact absorbFragment_keeps_ctxLong hlong ho
    · exact hlong
  · obtain ⟨hc, ho, rfl⟩ := exec_update_of_ok h hok
    have hlen : s.len.toNat < 192 := by simpa [State.ctxLong, hc] using hshort
    rw [State.ctxLong_eq_true_iff, State.completed_len, absorbFragment_len_toNat ho, hs.shortForm hlen]
    simp [hc]

/-- Settles O55: the bytes buffered after a successful UPDATE are the end of T. -/
theorem updateStoresTheUnabsorbedBytes : Obligations.UpdateStoresTheUnabsorbedBytes := by
  intro f s t hm h hok
  obtain ⟨-, -, rfl⟩ := exec_update_of_ok h hok
  have hread := absorbFragment_buffered (f := f) hm
  have hcnt := absorbFragment_cnt f s
  refine ⟨fun fits => ⟨?_, hread.trans ?_⟩, fun hmix => hread.trans ?_⟩
  · rw [State.completed_buf, absorbFragment_of_fits f s fits, stashFragment_buf]
    exact Memory.readRange_writeRange _ _ _ hm.1
  · rw [hcnt, if_pos fits, Nat.sub_self, List.drop_zero, State.joined]
  · rw [hcnt, if_neg (by omega), State.joined]

/-- Settles O38: the first two claims are the definitions; the third is four words of three kinds. -/
theorem initialStatesReplicateTheSeeds : Obligations.InitialStatesReplicateTheSeeds := by
  refine ⟨rfl, fun _ _ => rfl, fun s1 s2 k hk => ?_⟩
  match k, hk with
  | 0, _ | 1, _ | 2, _ | 3, _ => exact ⟨rfl, rfl, rfl⟩

/-- Settles O46: both kinds of reset leave `resetCore`. -/
theorem resetLeavesTheResetValues : Obligations.ResetLeavesTheResetValues := by
  refine ⟨fun s a rest hscript ha => ?_, by decide⟩
  have hact : hostAct a { s with script := rest } = .next (resetCore (State.counted { s with script := rest })) := by
    cases a with
    | reset => rfl
    | resetDuring p => rfl
    | issue p => cases ha
    | read idx => cases ha
  exact ⟨_, (step_cons hscript).trans hact, rfl, rfl, rfl, rfl, rfl, rfl, resetCore_status _, rfl, rfl, rfl⟩

theorem issuePacket_script {p : Packet} {s t : State} (h : issuePacket p s = .next t) : t.script = s.script := by
  rcases issuePacket_next_cases h with ⟨code, -, -, rfl⟩ | ⟨-, rfl⟩ | ⟨-, -, -, rfl⟩ | ⟨-, h1, h2, rfl⟩ <;> simp

/-- Settles O48: every interaction answers a next state, and none puts anything on the script. -/
theorem nothingTheHostSendsIsRefused : Obligations.NothingTheHostSendsIsRefused := by
  refine ⟨issuePacket_answers_next, fun s a rest hscript => ?_⟩
  rw [step_cons hscript]
  cases a with
  | reset => exact ⟨_, rfl, rfl⟩
  | resetDuring p => exact ⟨_, rfl, rfl⟩
  | issue p =>
    obtain ⟨t, ht⟩ := issuePacket_answers_next p (State.counted { s with script := rest })
    exact ⟨t, ht, issuePacket_script ht⟩
  | read idx => exact ⟨_, rfl, rfl⟩

end Sys2Proof.Machine

/-! SUPPORT and proofs. The little-endian reading of byte sequences and the host's register reads
(R12, R13, R38, R40, R44). -/

namespace Sys2Proof.Machine

/-- The bytes of a sequence fill no more bits than they have (R40). -/
theorem leNat_lt (bs : List Byte) : leNat bs < 2 ^ (8 * bs.length) := by
  induction bs with
  | nil => exact Nat.one_pos
  | cons b rest ih =>
    have hb := b.isLt
    rw [leNat, List.length_cons, Nat.mul_succ, Nat.pow_add]
    omega

/-- Byte `j` of a sequence is digit `j` of its number in base 256 (R12, R38). -/
theorem leNat_digit (bs : List Byte) (j : Nat) (h : j < bs.length) :
    leNat bs / 2 ^ (8 * j) % 2 ^ 8 = bs[j].toNat := by
  induction bs generalizing j with
  | nil => exact absurd h (Nat.not_lt_zero j)
  | cons b rest ih =>
    have hb := b.isLt
    cases j with
    | zero =>
      simp only [leNat, List.getElem_cons_zero]
      omega
    | succ j =>
      have hdrop : leNat (b :: rest) / 2 ^ 8 = leNat rest := by
        simp only [leNat]
        omega
      rw [Nat.mul_succ, Nat.pow_add, Nat.mul_comm, ← Nat.div_div_eq_div_mul, hdrop]
      exact ih j (Nat.lt_of_succ_lt_succ h)

/-- At most 8 bytes are a word without loss (R12). -/
theorem le_toNat {bs : List Byte} (h : bs.length ≤ 8) : (le bs).toNat = leNat bs := by
  rw [le, BitVec.toNat_ofNat]
  exact Nat.mod_eq_of_lt (Nat.lt_of_lt_of_le (leNat_lt bs) (Nat.pow_le_pow_right Nat.two_pos (by omega)))

/-- Byte `j` of at most 8 bytes is bits [8j+7:8j] of their word (R38). -/
theorem extractLsb'_le {bs : List Byte} (hle : bs.length ≤ 8) {j : Nat} (h : j < bs.length) :
    (le bs).extractLsb' (8 * j) 8 = bs[j] := by
  apply BitVec.eq_of_toNat_eq
  rw [BitVec.extractLsb'_toNat, Nat.shiftRight_eq_div_pow, le_toNat hle, leNat_digit bs j h]

/-- The word of at most 8 bytes is zero-extended (R40). -/
theorem getLsbD_le_of_ge {bs : List Byte} (hle : bs.length ≤ 8) {i : Nat} (h : 8 * bs.length ≤ i) :
    (le bs).getLsbD i = false := by
  rw [← BitVec.testBit_toNat, le_toNat hle]
  exact Nat.testBit_lt_two_pow (Nat.lt_of_lt_of_le (leNat_lt bs) (Nat.pow_le_pow_right Nat.two_pos h))

theorem getElem_slice (m : List Byte) (i k j : Nat) (h : j < (slice m i k).length) :
    (slice m i k)[j] = m[i + j]'(by simp only [length_slice] at h; omega) := by
  simp only [slice, List.getElem_take, List.getElem_drop]

/-- Settles O31: the slice read is at most 8 bytes, so its word has them as digits and nothing above them. -/
theorem wordsAreAssembledLittleEndian : Obligations.WordsAreAssembledLittleEndian := by
  intro b off n _ hn hoff
  have hlen : (slice b off (off + n)).length = n := by
    rw [length_slice]
    omega
  have hle : (slice b off (off + n)).length ≤ 8 := by rwa [hlen]
  refine ⟨fun j _ hjn => ?_, fun i hi => ?_⟩
  · rw [memRead, extractLsb'_le hle (by rwa [hlen]), getElem_slice]
  · exact getLsbD_le_of_ge hle (by rwa [hlen])

/-- No register shows what the host still does or has read (R44). -/
theorem State.readReg_withHost (s : State) (script : List HostAction) (reads : List RegValue) (idx : RegIndex) :
    State.readReg { s with script := script, reads := reads } idx = s.readReg idx := rfl

/-- The step of a register read notes the value and takes the read off the script. -/
theorem step_read {s : State} {idx : RegIndex} {rest : List HostAction} (h : s.script = .read idx :: rest) :
    step s = .next { s with script := rest, reads := s.reads ++ [s.readReg idx] } := by
  rw [step_cons h]
  exact hostRead_eq idx _

/-- Settles O29: a read writes only the host's notes, which no register shows, so the next read notes the same value. -/
theorem registerReadsHaveNoSideEffect : Obligations.RegisterReadsHaveNoSideEffect := by
  refine ⟨fun idx s => ⟨_, hostRead_eq idx s, rfl, s.readReg_withHost s.script _⟩, fun idx s rest hscript => ?_⟩
  rw [run_succ (step_read hscript), run_succ (step_read rfl), State.readReg_withHost, List.append_assoc]
  rfl

end Sys2Proof.Machine

/-! SUPPORT and proofs. Command packets: which words are commands and which are illegal, what a step makes of a packet,
and the packets of the assembly lines (R53 to R63). -/

namespace Sys2Proof.Machine

theorem decode_of_cmd_hash128 {p : Packet} (h : p.cmd = 0x00000004) :
    decode p = .command (.hash128 p.msg p.seed1 p.seed2) := by
  unfold decode; rw [h]; rfl

theorem decode_of_cmd_hash64 {p : Packet} (h : p.cmd = 0x00000005) : decode p = .command (.hash64 p.msg) := by
  unfold decode; rw [h]; rfl

theorem decode_of_cmd_hash32 {p : Packet} (h : p.cmd = 0x00000006) : decode p = .command (.hash32 p.msg) := by
  unfold decode; rw [h]; rfl

/-- Settles O1: a packet that decodes to a command has one of the six words, and an illegal one has none of them. -/
theorem decodeReadsEveryWordAsTheMapSays : Obligations.DecodeReadsEveryWordAsTheMapSays := by
  intro p
  rcases hd : decode p with i | why
  · rcases decode_command_cases hd with
      ⟨hw, rfl⟩ | ⟨hw, rfl⟩ | ⟨hw, rfl⟩ | ⟨hw, rfl⟩ | ⟨hw, rfl⟩ | ⟨hw, rfl⟩ <;> rw [hw] <;> rfl
  · have not_command {i : Instr} (h : decode p = .command i) : False := nomatch hd.symm.trans h
    rw [if_neg fun h => not_command (decode_of_cmd_init h), if_neg fun h => not_command (decode_of_cmd_update h),
      if_neg fun h => not_command (decode_of_cmd_final h), if_neg fun h => not_command (decode_of_cmd_hash128 h),
      if_neg fun h => not_command (decode_of_cmd_hash64 h), if_neg fun h => not_command (decode_of_cmd_hash32 h)]
    rfl

/-- Settles O2: the decoder's answers list the words with their operands, and each word is decoded to its command. -/
theorem packetStandsForOneCommandOnly : Obligations.PacketStandsForOneCommandOnly := by
  intro p i
  refine ⟨fun h => ?_, fun ⟨hcmd, hops⟩ => ?_⟩
  · rcases decode_command_cases h with
      ⟨hw, rfl⟩ | ⟨hw, rfl⟩ | ⟨hw, rfl⟩ | ⟨hw, rfl⟩ | ⟨hw, rfl⟩ | ⟨hw, rfl⟩
    · exact ⟨hw, rfl, rfl⟩
    · exact ⟨hw, rfl⟩
    · exact ⟨hw, trivial⟩
    · exact ⟨hw, rfl, rfl, rfl⟩
    · exact ⟨hw, rfl⟩
    · exact ⟨hw, rfl⟩
  · cases i with
    | init s1 s2 =>
      obtain ⟨rfl, rfl⟩ := hops
      exact decode_of_cmd_init hcmd
    | update m =>
      subst hops
      exact decode_of_cmd_update hcmd
    | final => exact decode_of_cmd_final hcmd
    | hash128 m s1 s2 =>
      obtain ⟨rfl, rfl, rfl⟩ := hops
      exact decode_of_cmd_hash128 hcmd
    | hash64 m =>
      subst hops
      exact decode_of_cmd_hash64 hcmd
    | hash32 m =>
      subst hops
      exact decode_of_cmd_hash32 hcmd

/-- A command word is its two fields, OPC below RSV (R54). -/
theorem toNat_eq_opc_add_rsv (w : CmdWord) : w.toNat = (opc w).toNat + 16 * (rsv w).toNat := by
  have hw := w.isLt
  simp only [opc, rsv, BitVec.extractLsb'_toNat, Nat.shiftRight_eq_div_pow]
  omega

/-- The six command words are 1 to 6 (R55). -/
theorem cmdWord_range (i : Instr) : 1 ≤ (cmdWord i).toNat ∧ (cmdWord i).toNat ≤ 6 := by
  cases i <;> simp [cmdWord]

/-- R58's illegal words are those outside 1 to 6. -/
theorem illegalWord_iff (w : CmdWord) :
    (rsv w ≠ 0 ∨ opc w = 0 ∨ 7 ≤ (opc w).toNat) ↔ ¬(1 ≤ w.toNat ∧ w.toNat ≤ 6) := by
  have hfields := toNat_eq_opc_add_rsv w
  have hopc := (opc w).isLt
  have hrsv0 : rsv w = 0 ↔ (rsv w).toNat = 0 := BitVec.toNat_inj.symm
  have hopc0 : opc w = 0 ↔ (opc w).toNat = 0 := BitVec.toNat_inj.symm
  rw [ne_eq, hrsv0, hopc0]
  omega

/-- Settles O6: a packet that decodes to a command has one of the words 1 to 6, so an illegal one fails. -/
theorem illegalWordFailsWithIllegalCommand : Obligations.IllegalWordFailsWithIllegalCommand := by
  refine ⟨illegalWord_iff, fun s p hill => ?_⟩
  rcases issuePacket_cases p s with ⟨why, -, e⟩ | ⟨i, hd, -⟩
  · exact e
  · obtain ⟨hcmd, -⟩ := (packetStandsForOneCommandOnly p i).mp hd
    exact absurd (hcmd ▸ cmdWord_range i) ((illegalWord_iff p.cmd).mp hill)

/-- The step of the packet of HASH128 writes that digest into the results and completes. -/
theorem run_hash128 (m : List Byte) (s1 s2 : Word) (s : State) :
    Sys2Proof.core.run 1 { s with script := [.issue (encode (.hash128 m s1 s2))] } =
      .next ((s.packetTaken []).writeResult (hash128 m s1 s2).1 (hash128 m s1 s2).2).completed :=
  run_succ ((step_issue_encode rfl).trans (exec_hash128 m s1 s2 _))

/-- Settles O57: HASHSTREAM is the stream of one fragment, whose FINAL leaves the digest HASH128 writes (R95). -/
theorem hashStreamEqualsHash128 : Obligations.HashStreamEqualsHash128 := by
  intro m s1 s2 s hm hlen
  have hflat : [bytesOf m].flatten = bytesOf m := List.flatten_singleton
  obtain ⟨t, hrun, hfin⟩ := run_streamScript s1 s2 [bytesOf m] hm (hflat.symm ▸ hlen)
  rw [hflat] at hfin
  exact ⟨rfl, t, _, hrun, run_hash128 (bytesOf m) s1 s2 s, ⟨hfin.resH1, hfin.resH2, hfin.resultValid⟩,
    hfin.resultValid, hfin.holds, ⟨rfl, rfl, rfl, fun _ => rfl, rfl⟩⟩

/-- What the encoding lemmas say of each command, for all of them (R55, R56, R61). -/
theorem encoding_statement (i : Instr) : Laws.Encoding.Statement i := by
  cases i with
  | init s1 s2 => exact Laws.Encoding.init s1 s2
  | update m => exact Laws.Encoding.update m
  | final => exact Laws.Encoding.final
  | hash128 m s1 s2 => exact Laws.Encoding.hash128 m s1 s2
  | hash64 m => exact Laws.Encoding.hash64 m
  | hash32 m => exact Laws.Encoding.hash32 m

/-- The packet of a command exists exactly when the command is well formed (R53, R61). -/
theorem encode_wf_iff (i : Instr) : i.wf = true ↔ (encode i).wf := by
  obtain ⟨-, -, -, -, -, hwf⟩ := encoding_statement i
  exact hwf

/-- Settles O3: the decoder reads every encoding back, and encoding keeps the message. -/
theorem decodeUndoesEncode : Obligations.DecodeUndoesEncode := fun i hi =>
  ⟨decode_encode i, (encode_wf_iff i).mp hi⟩

/-- Settles O4, by running the decoder on the twelve words. -/
theorem writtenOutWordsDecode : Obligations.WrittenOutWordsDecode := by
  unfold Obligations.WrittenOutWordsDecode
  decide

theorem Decoded.command?_eq_some_iff {d : Decoded} {i : Instr} : d.command? = some i ↔ d = .command i := by
  cases d <;> simp [Decoded.command?]

/-- The step of a packet takes it off the script, counts it and runs it. -/
theorem step_issue {s : State} {p : Packet} {rest : List HostAction} (h : s.script = .issue p :: rest) :
    step s = issuePacket p (s.packetTaken rest) := step_cons h

/-- Settles O5: a packet's step is its command on the state that has taken the packet, or the failure there. -/
theorem stepRunsTheDecodedCommand : Obligations.StepRunsTheDecodedCommand := by
  refine ⟨fun s p rest i hscript hd => ?_, fun s nbits w i hd => ?_, fun s p rest why hscript hd => ?_⟩
  · rw [step_issue hscript, issuePacket_of_decode hd]
    rfl
  · rw [step_issue (s.withFetchWord_script nbits w), issuePacket_of_decode (Decoded.command?_eq_some_iff.mp hd)]
    rfl
  · rw [step_issue hscript]
    simp only [issuePacket, hd]
    rfl

/-- Settles O56, line by line: each line is the packet of its command, and the bytes of `seq(100, 128)` are computed. -/
theorem exampleLinesAssembleAsListed : Obligations.ExampleLinesAssembleAsListed :=
  ⟨rfl, rfl, rfl, rfl, by decide, by decide, rfl, rfl⟩

end Sys2Proof.Machine

/-! SUPPORT and proofs. The Block Mixer: rotl64, the words of a block, Mix written out, and that no round of the
four loses state (R65 to R67, R71, R75, R76). -/

namespace Sys2Proof.Machine

/-- The model's rotation is the library's. -/
theorem rotl64_eq_rotateLeft (x : Word) {k : Nat} (hk : k < 64) : rotl64 x k = x.rotateLeft k :=
  (BitVec.rotateLeft_eq_rotateLeftAux_of_lt hk).symm

/-- Bit `j` lands at bit `(j + k) mod 64` (R65): a bit that leaves at the top comes in again below bit `k`. -/
theorem getLsbD_rotl64 (x : Word) {k j : Nat} (hk : k < 64) (hj : j < 64) :
    (rotl64 x k).getLsbD ((j + k) % 64) = x.getLsbD j := by
  rw [rotl64_eq_rotateLeft x hk, BitVec.getLsbD_rotateLeft_of_le hk]
  by_cases wraps : 64 ≤ j + k
  · have hlow : (j + k) % 64 < k := by omega
    have hback : 64 - k + (j + k) % 64 = j := by omega
    simp only [hlow, hback, decide_true, cond_true]
  · have hplace : (j + k) % 64 = j + k := Nat.mod_eq_of_lt (by omega)
    have hhigh : ¬j + k < k := by omega
    have hword : j + k < 64 := by omega
    simp only [hplace, hhigh, hword, decide_true, decide_false, cond_false, Bool.true_and, Nat.add_sub_cancel]

/-- A rotation loses no bit. -/
theorem rotl64_injective {k : Nat} (hk : k < 64) : Function.Injective (rotl64 · k) := by
  intro x y e
  refine BitVec.eq_of_getLsbD_eq fun j hj => ?_
  rw [← getLsbD_rotl64 x hk hj, ← getLsbD_rotl64 y hk hj]
  exact congrArg (BitVec.getLsbD · _) e

/-- Settles O30: the bit movement holds for every amount below 64; the rest is computed. -/
theorem rotationMovesEveryBit : Obligations.RotationMovesEveryBit :=
  ⟨fun x _ _ _ hk hj => getLsbD_rotl64 x (Nat.lt_succ_of_le hk) hj, by decide, by decide, by decide⟩

/-- Word `i` of a block is its 8-byte read at `8i` (R66). -/
theorem wordAt_blockWords (b : List Byte) {i : Nat} (hi : i < 12) : wordAt (blockWords b) i = memRead b (8 * i) 8 := by
  simp only [wordAt_eq, Nat.mod_eq_of_lt hi, blockWords, Vector.getElem_ofFn]

/-- Settles O32: BlockWords is these reads, and the example's words are computed. -/
theorem blockWordsReadsTwelveWords : Obligations.BlockWordsReadsTwelveWords :=
  ⟨fun b _ hi => wordAt_blockWords b hi, by decide, by decide⟩

/-- The loop of Mix is its steps written out (R67). On an array given by its twelve words every index of the loop is a
numeral, so each step's reads and writes come out as the terms of its line. -/
theorem mix_eq_mixWrittenOut (h : Vector Word 12) (b : List Byte) : mix h b = mixWrittenOut h (blockWords b) := by
  rw [words12_eta h, mix]
  generalize blockWords b = d
  simp only [mixWrittenOut, mixRot, List.zipIdx_cons, List.zipIdx_nil, List.foldl_cons, List.foldl_nil, mixStep,
    addWord, xorWord, rotWord, setWord, wordAt_eq, Fin.val_ofNat, Nat.reduceAdd, Nat.reduceMod, Vector.getElem_mk,
    List.getElem_toArray, List.getElem_cons_zero, List.getElem_cons_succ, Vector.set_mk, List.set_toArray,
    List.set_cons_zero, List.set_cons_succ]

/-- Settles O33: the two forms of Mix agree on every state, and the example's words are computed. -/
theorem mixIsTheStepsWrittenOut : Obligations.MixIsTheStepsWrittenOut :=
  ⟨mix_eq_mixWrittenOut, by decide, by decide⟩

/-- Writing one word loses nothing when the old word can be told from the new one and the other words. -/
theorem setWord_injective {n : Nat} [NeZero n] {i : Nat} {new : Vector Word n → Word}
    (hnew : ∀ h h', (∀ j, j % n ≠ i % n → wordAt h j = wordAt h' j) → new h = new h' →
      wordAt h i = wordAt h' i) :
    Function.Injective fun h => setWord h i (new h) := by
  intro h h' e
  have word (j : Nat) :
      (if j % n = i % n then new h else wordAt h j) = if j % n = i % n then new h' else wordAt h' j := by
    simpa only [wordAt_setWord] using congrArg (wordAt · j) e
  have others (j : Nat) (hj : j % n ≠ i % n) : wordAt h j = wordAt h' j := by simpa only [if_neg hj] using word j
  refine words_ext fun j _ => ?_
  by_cases hj : j % n = i % n
  · rw [wordAt_congr h hj, wordAt_congr h' hj]
    exact hnew h h' others (by simpa only [if_true] using word i)
  · exact others j hj

theorem addWord_injective {n : Nat} [NeZero n] (i : Nat) (v : Word) :
    Function.Injective fun h : Vector Word n => addWord h i v :=
  setWord_injective fun _ _ _ e => (BitVec.add_left_inj v).mp e

theorem addWord_word_injective {n : Nat} [NeZero n] (i j : Nat) (hj : j % n ≠ i % n) :
    Function.Injective fun h : Vector Word n => addWord h i (wordAt h j) :=
  setWord_injective fun _ h' others e => (BitVec.add_left_inj (wordAt h' j)).mp (others j hj ▸ e)

theorem xorWord_word_injective {n : Nat} [NeZero n] (i j : Nat) (hj : j % n ≠ i % n) :
    Function.Injective fun h : Vector Word n => xorWord h i (wordAt h j) :=
  setWord_injective fun _ h' others e => (BitVec.xor_left_inj (wordAt h' j)).mp (others j hj ▸ e)

theorem rotWord_injective {n : Nat} [NeZero n] (i : Nat) {k : Nat} (hk : k < 64) :
    Function.Injective fun h : Vector Word n => rotWord h i k :=
  setWord_injective fun _ _ _ e => rotl64_injective hk e

/-- No step of Mix loses state: it changes a word by a word of the block or by another word, or rotates it (R67). -/
theorem mixStep_injective (d : Vector Word 12) (i : Nat) {k : Nat} (hk : k < 64) :
    Function.Injective fun h => mixStep d h i k :=
  (addWord_word_injective (i + 11) (i + 1) (by omega)).comp <|
    (rotWord_injective i hk).comp <|
    (xorWord_word_injective (i + 11) i (by omega)).comp <|
    (xorWord_word_injective (i + 2) (i + 10) (by omega)).comp <|
    addWord_injective i (wordAt d i)

/-- No step of EndPartial loses state (R71). -/
theorem endPartialStep_injective (i : Nat) {k : Nat} (hk : k < 64) : Function.Injective fun h => endPartialStep h i k :=
  (rotWord_injective (i + 1) hk).comp <|
    (xorWord_word_injective (i + 2) (i + 11) (by omega)).comp <|
    addWord_word_injective (i + 11) (i + 1) (by omega)

/-- No step of ShortMix loses state (R75). -/
theorem shortMixStep_injective (j : Nat) {k : Nat} (hk : k < 64) : Function.Injective fun h => shortMixStep h j k :=
  (xorWord_word_injective j (j + 2) (by omega)).comp <|
    (addWord_word_injective (j + 2) (j + 3) (by omega)).comp <|
    rotWord_injective (j + 2) hk

/-- No step of ShortEnd loses state (R76). -/
theorem shortEndStep_injective (j : Nat) {k : Nat} (hk : k < 64) : Function.Injective fun h => shortEndStep h j k :=
  (addWord_word_injective (j + 3) (j + 2) (by omega)).comp <|
    (rotWord_injective (j + 2) hk).comp <|
    xorWord_word_injective (j + 3) (j + 2) (by omega)

/-- A loop of steps that lose nothing loses nothing. -/
theorem foldl_injective {α β : Type} {f : α → β → α} {l : List β}
    (hf : ∀ b ∈ l, Function.Injective (f · b)) : Function.Injective (l.foldl f) := by
  induction l with
  | nil => exact Function.injective_id
  | cons b l ih =>
    exact (ih fun c hc => hf c (List.mem_cons_of_mem b hc)).comp (hf b List.mem_cons_self)

/-- A round over a schedule of amounts below 64 loses no state when its step loses none. -/
theorem round_injective {α : Type} {step : α → Nat → Nat → α} {schedule : List Nat}
    (hamounts : ∀ k ∈ schedule, k < 64)
    (hstep : ∀ i k, k < 64 → Function.Injective fun h => step h i k) :
    Function.Injective (schedule.zipIdx.foldl fun h (k, i) => step h i k) :=
  foldl_injective fun (k, i) hmem => hstep i k (hamounts k (List.fst_mem_of_mem_zipIdx hmem))

/-- Settles O37: every step of the four rounds is injective, so the loops are. -/
theorem roundsLoseNoState : Obligations.RoundsLoseNoState :=
  ⟨fun _ _ b e => round_injective (by decide) (fun i _ => mixStep_injective (blockWords b) i) e,
    fun _ _ e => round_injective (by decide) (fun i _ => endPartialStep_injective i) e,
    fun _ _ e => round_injective (by decide) (fun j _ => shortMixStep_injective j) e,
    fun _ _ e => round_injective (by decide) (fun j _ => shortEndStep_injective j) e⟩

end Sys2Proof.Machine

/-! SUPPORT and proofs. The Long Finalizer and the long path: EndPartial written out, the tail block, what End absorbs,
and LongHash block by block (R69 to R73). -/

namespace Sys2Proof.Machine

/-! Reads and writes of an array that is given by the list of its words. -/

theorem wordAt_words {n : Nat} [NeZero n] (words : List Word) (hsize : words.toArray.size = n) (i : Nat) :
    wordAt ⟨words.toArray, hsize⟩ i =
      words[i % n]'(Nat.lt_of_lt_of_eq (Nat.mod_lt i (Nat.pos_of_neZero n)) hsize.symm) := rfl

theorem setWord_words {n : Nat} [NeZero n] (words : List Word) (hsize : words.toArray.size = n) (i : Nat) (v : Word) :
    setWord ⟨words.toArray, hsize⟩ i v = ⟨(words.set (i % n) v).toArray, List.length_set.trans hsize⟩ := by
  simp only [setWord, Fin.ofNat, Vector.set_mk, List.set_toArray]

/-- The loop of EndPartial is its steps written out (R71): on an array given by its twelve words each step reads and
writes at numerals. -/
theorem endPartial_eq_endPartialWrittenOut (h : Vector Word 12) : endPartial h = endPartialWrittenOut h := by
  rw [words12_eta h, endPartial]
  simp only [endPartialWrittenOut, endRot, List.zipIdx_cons, List.zipIdx_nil, List.foldl_cons, List.foldl_nil,
    endPartialStep, addWord, xorWord, rotWord, wordAt_words, setWord_words, Nat.reduceAdd, Nat.reduceMod,
    List.getElem_cons_zero, List.getElem_cons_succ, List.set_cons_zero, List.set_cons_succ]

/-- Settles O34: the two forms of EndPartial agree on every state, and the example's words are computed. -/
theorem endPartialIsTheStepsWrittenOut : Obligations.EndPartialIsTheStepsWrittenOut :=
  ⟨endPartial_eq_endPartialWrittenOut, by decide, by decide⟩

/-! The tail block (R70). -/

theorem tailBlock_data (t : List Byte) {j : Nat} (hj : j < t.length) : (tailBlock t)[j]? = some t[j] := by
  rw [tailBlock, List.append_assoc, List.getElem?_append_left hj, List.getElem?_eq_getElem hj]

theorem tailBlock_padding (t : List Byte) {j : Nat} (hlow : t.length ≤ j) (hhigh : j < 95) :
    (tailBlock t)[j]? = some 0 := by
  have hpad : j - t.length < 95 - t.length := by omega
  rw [tailBlock, List.append_assoc, List.getElem?_append_right hlow, List.getElem?_append_left (by rwa [length_zeros]),
    zeros, List.getElem?_replicate_of_lt hpad]

theorem tailBlock_tag {t : List Byte} (ht : t.length ≤ 95) : (tailBlock t)[95]? = some (BitVec.ofNat 8 t.length) := by
  have hbody : (t ++ zeros (95 - t.length)).length = 95 := by
    rw [List.length_append, length_zeros]
    omega
  rw [tailBlock, List.getElem?_append_right (by omega), hbody]
  rfl

/-- A length of at most 95 fits the tag byte. -/
theorem tag_toNat {r : Nat} (hr : r ≤ 95) : (BitVec.ofNat 8 r).toNat = r :=
  Nat.mod_eq_of_lt (by omega)

/-- The tag tells where the data ends, so the tail is read back from its block. -/
theorem tailBlock_inj {t u : List Byte} (ht : t.length ≤ 95) (hu : u.length ≤ 95) (h : tailBlock t = tailBlock u) :
    t = u := by
  have htag : BitVec.ofNat 8 t.length = BitVec.ofNat 8 u.length := by
    rw [← Option.some_inj, ← tailBlock_tag ht, ← tailBlock_tag hu, h]
  have hlen : t.length = u.length := by rw [← tag_toNat ht, ← tag_toNat hu, htag]
  rw [tailBlock, tailBlock, List.append_assoc, List.append_assoc] at h
  exact List.append_inj_left h hlen

/-- Settles O39, range by range of the tail block. -/
theorem tailBlockIsTaggedByItsLength : Obligations.TailBlockIsTaggedByItsLength :=
  ⟨fun t ht => ⟨length_tailBlock t ht, fun _ hj => tailBlock_data t hj, fun _ => tailBlock_padding t, tailBlock_tag ht,
    tag_toNat ht⟩, fun _ _ => tailBlock_inj, rfl⟩

/-! What End absorbs (R72). -/

/-- Adding a word to each of the first `m` words of an array, one after another. -/
theorem wordAt_foldl_addWord {n m : Nat} [NeZero n] (hm : m ≤ n) (h : Vector Word n) (v : Nat → Word) {j : Nat}
    (hj : j < n) :
    wordAt ((List.range m).foldl (fun h i => addWord h i (v i)) h) j =
      if j < m then wordAt h j + v j else wordAt h j := by
  induction m with
  | zero => rfl
  | succ m ih =>
    rw [List.range_succ, List.foldl_append, List.foldl_cons, List.foldl_nil, wordAt_addWord, Nat.mod_eq_of_lt hj,
      Nat.mod_eq_of_lt hm]
    by_cases last : j = m
    · subst last
      rw [if_pos rfl, if_pos (Nat.lt_succ_self j), ih (Nat.le_of_lt hm), if_neg (Nat.lt_irrefl j)]
    · have hsame : j < m + 1 ↔ j < m := by omega
      simp only [if_neg last, ih (Nat.le_of_lt hm), hsame]

/-- Adding all words of an array, one after another, is adding word by word. -/
theorem foldl_addWord_eq_zipWith {n : Nat} [NeZero n] (h d : Vector Word n) :
    (List.range n).foldl (fun h i => addWord h i (wordAt d i)) h = Vector.zipWith (· + ·) h d := by
  refine words_ext fun j hj => ?_
  rw [wordAt_foldl_addWord (Nat.le_refl n) h (wordAt d) hj, if_pos hj]
  simp only [wordAt_eq, Vector.getElem_zipWith]

theorem endLong_eq (h : Vector Word 12) (tb : List Byte) :
    endLong h tb = endPartial (endPartial (endPartial (Vector.zipWith (· + ·) h (blockWords tb)))) := by
  rw [endLong, foldl_addWord_eq_zipWith]

theorem leNat_zeros (n : Nat) : leNat (zeros n) = 0 := by
  induction n with
  | zero => rfl
  | succ n ih =>
    have hcons : zeros (n + 1) = 0 :: zeros n := List.replicate_succ
    rw [hcons, leNat, ih]
    rfl

/-- Every read of zero bytes is 0 (R13). -/
theorem memRead_zeros (n off k : Nat) : memRead (zeros n) off k = 0 := by
  have hslice : slice (zeros n) off (off + k) = zeros (min k (n - off)) := by
    rw [slice, zeros, List.drop_replicate, List.take_replicate, Nat.add_sub_cancel_left]
    rfl
  rw [memRead, hslice, le, leNat_zeros]
  rfl

theorem zipWith_add_blockWords_zeros (h : Vector Word 12) (n : Nat) :
    Vector.zipWith (· + ·) h (blockWords (zeros n)) = h := by
  refine Vector.ext fun i hi => ?_
  rw [Vector.getElem_zipWith, blockWords, Vector.getElem_ofFn, memRead_zeros]
  exact BitVec.add_zero _

/-- Settles O40: End is the sum and three rounds, zero words add nothing, and the example's words are computed. -/
theorem endAbsorbsTheTailBlockOnce : Obligations.EndAbsorbsTheTailBlockOnce :=
  ⟨endLong_eq, fun h => by rw [endLong_eq, zipWith_add_blockWords_zeros], by decide, by decide⟩

/-! LongHash over a message that is given as its blocks and a rest (R69, R73). -/

theorem block_zero_append {b : List Byte} (hb : b.length = 96) (m : List Byte) : block (b ++ m) 0 = b := by
  rw [block_append_left b m 0 (by omega)]
  exact List.take_of_length_le (Nat.le_of_eq hb)

theorem length_flatten_blocks {blocks : List (List Byte)} (hblocks : ∀ b ∈ blocks, b.length = 96) :
    blocks.flatten.length = 96 * blocks.length := by
  rw [List.length_flatten, List.map_congr_left hblocks, List.map_const', List.sum_replicate_nat, Nat.mul_comm]

/-- Mixing the complete blocks of a message is folding Mix over the list of them. -/
theorem mixBlocks_flatten (blocks : List (List Byte)) (rest : List Byte) (h : Vector Word 12)
    (hblocks : ∀ b ∈ blocks, b.length = 96) :
    mixBlocks h (blocks.flatten ++ rest) blocks.length = blocks.foldl mix h := by
  induction blocks generalizing h with
  | nil => rfl
  | cons b blocks ih =>
    have hb : b.length = 96 := hblocks b List.mem_cons_self
    have first : mixBlocks h (b ++ (blocks.flatten ++ rest)) 1 = mix h b := by
      rw [mixBlocks_succ, mixBlocks_zero, block_zero_append hb]
    rw [List.flatten_cons, List.append_assoc, List.length_cons, Nat.add_comm, mixBlocks_add, first,
      List.drop_left' hb, ih _ fun c hc => hblocks c (List.mem_cons_of_mem b hc), List.foldl_cons]

/-- Settles O41: a rest of at most 95 bytes leaves the number of complete blocks, which are mixed in order, and is
what remains after them; the example is computed. -/
theorem longHashMixesEveryBlockInOrder : Obligations.LongHashMixesEveryBlockInOrder := by
  refine ⟨fun blocks rest s1 s2 hblocks hrest => ?_, by decide +kernel⟩
  have hflat := length_flatten_blocks hblocks
  have hcount : (blocks.flatten ++ rest).length / 96 = blocks.length := by
    rw [List.length_append, hflat]
    omega
  rw [longHash, slice_to_end, hcount, mixBlocks_flatten blocks rest _ hblocks, List.drop_left' hflat]

end Sys2Proof.Machine

/-! SUPPORT and proofs. The Short-Path Hasher: ShortMix and ShortEnd written out, what each absorption adds, and Short
group by group (R75 to R81). -/

namespace Sys2Proof.Machine

/-! The two rounds written out (R75, R76): on an array given by its four words each step reads and writes at numerals. -/

theorem shortMix_eq_shortMixWrittenOut (h : Vector Word 4) : shortMix h = shortMixWrittenOut h := by
  rw [words4_eta h, shortMix]
  simp only [shortMixWrittenOut, shortMixRot, List.zipIdx_cons, List.zipIdx_nil, List.foldl_cons, List.foldl_nil,
    shortMixStep, addWord, xorWord, rotWord, wordAt_words, setWord_words, Nat.reduceAdd, Nat.reduceMod,
    List.getElem_cons_zero, List.getElem_cons_succ, List.set_cons_zero, List.set_cons_succ]

/-- Settles O35: the two forms of ShortMix agree on every state, and the example is computed. -/
theorem shortMixIsTheStepsWrittenOut : Obligations.ShortMixIsTheStepsWrittenOut :=
  ⟨shortMix_eq_shortMixWrittenOut, by decide⟩

theorem shortEnd_eq_shortEndWrittenOut (h : Vector Word 4) : shortEnd h = shortEndWrittenOut h := by
  rw [words4_eta h, shortEnd]
  simp only [shortEndWrittenOut, shortEndRot, List.zipIdx_cons, List.zipIdx_nil, List.foldl_cons, List.foldl_nil,
    shortEndStep, addWord, xorWord, rotWord, wordAt_words, setWord_words, Nat.reduceAdd, Nat.reduceMod,
    List.getElem_cons_zero, List.getElem_cons_succ, List.set_cons_zero, List.set_cons_succ]

/-- Settles O36: the two forms of ShortEnd agree on every state, and the example is computed. -/
theorem shortEndIsTheStepsWrittenOut : Obligations.ShortEndIsTheStepsWrittenOut :=
  ⟨shortEnd_eq_shortEndWrittenOut, by decide⟩

/-! What an addition to each of a, b, c, d leaves (R77 to R80). -/

@[simp] theorem addWord_a (a b c d v : Word) : addWord #v[a, b, c, d] 0 v = #v[a + v, b, c, d] := rfl

@[simp] theorem addWord_b (a b c d v : Word) : addWord #v[a, b, c, d] 1 v = #v[a, b + v, c, d] := rfl

@[simp] theorem addWord_c (a b c d v : Word) : addWord #v[a, b, c, d] 2 v = #v[a, b, c + v, d] := rfl

@[simp] theorem addWord_d (a b c d v : Word) : addWord #v[a, b, c, d] 3 v = #v[a, b, c, d + v] := rfl

/-- A pair adds its two words to c and d and runs ShortMix (R78). -/
theorem absorbPair_eq (m : List Byte) (p : Nat) (a b c d : Word) :
    absorbPair m #v[a, b, c, d] p = shortMix #v[a, b, c + memRead m p 8, d + memRead m (p + 8) 8] := by
  rw [absorbPair, addWord_c, addWord_d]

/-- A group is a pair and then two more words, added to a and b (R77, R78). -/
theorem absorbGroup_eq (m : List Byte) (h : Vector Word 4) (p : Nat) :
    absorbGroup m h p = addWord (addWord (absorbPair m h p) 0 (memRead m (p + 16) 8)) 1 (memRead m (p + 24) 8) := rfl

/-- Settles O45: the pair is ShortMix of the sums, and the group adds its last two words to what the pair leaves. -/
theorem groupAndPairAbsorptionAddWords : Obligations.GroupAndPairAbsorptionAddWords := by
  intro m p a b c d a' b' c' d' hmix
  have hpair : absorbPair m #v[a, b, c, d] p = #v[a', b', c', d'] := (absorbPair_eq m p a b c d).trans hmix
  exact ⟨hpair, by rw [absorbGroup_eq, hpair, addWord_a, addWord_b]⟩

/-- A length below 192 fits the top byte, so shifting it there loses no bit (R79). -/
theorem lengthAddend_toNat {n : Nat} (hn : n < 192) : (BitVec.ofNat 64 n <<< 56 : Word).toNat = n * 2 ^ 56 := by
  rw [BitVec.toNat_shiftLeft, BitVec.toNat_ofNat, Nat.shiftLeft_eq]
  omega

/-- Settles O42: only d is written, and the shifted length keeps all its bits. -/
theorem lengthIsInjectedIntoTheTopByteOfD : Obligations.LengthIsInjectedIntoTheTopByteOfD :=
  fun n a b c d hn => ⟨addWord_d a b c d (BitVec.ofNat 64 n <<< 56), lengthAddend_toNat hn⟩

/-- A read from the start of a sequence reads its first bytes. -/
theorem memRead_zero (m : List Byte) (n : Nat) : memRead m 0 n = le (m.take n) := by
  rw [memRead, slice, List.drop_zero, Nat.zero_add, Nat.sub_zero]

/-- A read up to the end of a sequence reads all that remains. -/
theorem memRead_to_end (m : List Byte) {off : Nat} (h : off ≤ m.length) :
    memRead m off (m.length - off) = le (m.drop off) := by
  rw [memRead, Nat.add_sub_cancel' h, slice_to_end]

/-- Settles O43: row by row, the partial words read are the first 8 bytes of the tail and what remains of it. -/
theorem tailTableIsFollowed : Obligations.TailTableIsFollowed := by
  intro a b c d t _
  rw [absorbTail]
  split
  case isTrue => rw [addWord_c, addWord_d]
  case isFalse =>
    split
    case isTrue => rw [addWord_c, memRead_zero, List.take_length]
    case isFalse h => rw [addWord_c, addWord_d, memRead_zero, memRead_to_end t (by omega)]

/-! Short over a message that is given as its groups, a pair and a tail (R81). Absorptions see only the bytes they
read, so what stands before or after these does not matter. -/

theorem memRead_append_left (m m' : List Byte) {off n : Nat} (h : off + n ≤ m.length) :
    memRead (m ++ m') off n = memRead m off n :=
  congrArg le (slice_append_left m m' (Nat.le_add_right off n) h)

theorem memRead_append_right (m m' : List Byte) (off n : Nat) :
    memRead (m ++ m') (m.length + off) n = memRead m' off n := by
  rw [memRead, Nat.add_assoc, ← slice_drop, List.drop_left, memRead]

theorem absorbPair_append_left (m m' : List Byte) (h : Vector Word 4) {p : Nat} (hp : p + 16 ≤ m.length) :
    absorbPair (m ++ m') h p = absorbPair m h p := by
  rw [absorbPair, memRead_append_left m m' (by omega), memRead_append_left m m' (by omega), absorbPair]

theorem absorbPair_append_right (m m' : List Byte) (h : Vector Word 4) (p : Nat) :
    absorbPair (m ++ m') h (m.length + p) = absorbPair m' h p := by
  simp only [absorbPair, Nat.add_assoc, memRead_append_right]

theorem absorbGroup_append_left (m m' : List Byte) (h : Vector Word 4) {p : Nat} (hp : p + 32 ≤ m.length) :
    absorbGroup (m ++ m') h p = absorbGroup m h p := by
  rw [absorbGroup_eq, absorbPair_append_left m m' h (by omega), memRead_append_left m m' (by omega),
    memRead_append_left m m' (by omega), absorbGroup_eq]

theorem absorbGroup_append_right (m m' : List Byte) (h : Vector Word 4) (p : Nat) :
    absorbGroup (m ++ m') h (m.length + p) = absorbGroup m' h p := by
  simp only [absorbGroup_eq, absorbPair_append_right, Nat.add_assoc, memRead_append_right]

theorem length_flatten_groups {groups : List (List Byte)} (hgroups : ∀ g ∈ groups, g.length = 32) :
    groups.flatten.length = 32 * groups.length := by
  rw [List.length_flatten, List.map_congr_left hgroups, List.map_const', List.sum_replicate_nat, Nat.mul_comm]

/-- Absorbing the groups of a message at their offsets is folding over the list of them. -/
theorem foldl_absorbGroup_flatten (groups : List (List Byte)) (rest : List Byte) (h : Vector Word 4)
    (hgroups : ∀ g ∈ groups, g.length = 32) :
    (List.range groups.length).foldl (fun h k => absorbGroup (groups.flatten ++ rest) h (32 * k)) h =
      groups.foldl (fun h g => absorbGroup g h 0) h := by
  induction groups generalizing h with
  | nil => rfl
  | cons g groups ih =>
    have hg : g.length = 32 := hgroups g List.mem_cons_self
    have later (h : Vector Word 4) (k : Nat) :
        absorbGroup (g ++ (groups.flatten ++ rest)) h (32 * (k + 1)) =
          absorbGroup (groups.flatten ++ rest) h (32 * k) := by
      rw [Nat.mul_succ, Nat.add_comm, ← hg, absorbGroup_append_right]
    simp only [List.flatten_cons, List.append_assoc, List.length_cons, List.range_succ_eq_map, List.foldl_cons,
      List.foldl_map, later]
    rw [Nat.mul_zero, absorbGroup_append_left g _ h (by omega), ih _ fun c hc => hgroups c (List.mem_cons_of_mem g hc)]

/-- Fewer than 32 bytes after the groups are no group. -/
theorem absorbGroups_flatten {groups : List (List Byte)} {rest : List Byte} (h : Vector Word 4)
    (hgroups : ∀ g ∈ groups, g.length = 32) (hrest : rest.length < 32) :
    absorbGroups (groups.flatten ++ rest) h = groups.foldl (fun h g => absorbGroup g h 0) h := by
  have hcount : (groups.flatten ++ rest).length / 32 = groups.length := by
    rw [List.length_append, length_flatten_groups hgroups]
    omega
  rw [absorbGroups, hcount, foldl_absorbGroup_flatten groups rest h hgroups]

/-- After whole groups, here `front`, a pair is absorbed exactly when there is one. -/
theorem absorbLastPair_append {front pair tail : List Byte} (h : Vector Word 4) (hfront : 32 ∣ front.length)
    (hpair : pair = [] ∨ pair.length = 16) (htail : tail.length ≤ 15) :
    absorbLastPair (front ++ pair ++ tail) h = if pair = [] then h else absorbPair pair h 0 := by
  obtain ⟨n, hn⟩ := hfront
  have hlen : (front ++ pair ++ tail).length = 32 * n + pair.length + tail.length := by
    rw [List.length_append, List.length_append, hn]
  obtain rfl | hpair := hpair
  · rw [List.length_nil] at hlen
    rw [absorbLastPair, if_pos rfl, if_neg (by omega)]
  · have hne : pair ≠ [] := List.ne_nil_of_length_pos (by omega)
    have hgroups : 32 * ((front ++ pair ++ tail).length / 32) = front.length + 0 := by omega
    rw [absorbLastPair, if_neg hne, if_pos (by omega), hgroups, List.append_assoc, absorbPair_append_right,
      absorbPair_append_left pair tail h (by omega)]

/-- The tail begins after the groups and the pair. -/
theorem tailOffset_append {front pair tail : List Byte} (hfront : 32 ∣ front.length)
    (hpair : pair = [] ∨ pair.length = 16) (htail : tail.length ≤ 15) :
    tailOffset (front ++ pair ++ tail).length = (front ++ pair).length := by
  have hlen : pair.length = 0 ∨ pair.length = 16 := hpair.imp_left List.length_eq_zero_iff.mpr
  rw [List.length_append, List.length_append, tailOffset]
  split <;> omega

/-- Settles O44: the groups are folded over, the pair is absorbed where there is one, and the tail is what remains
after them; the example is computed. -/
theorem shortAbsorbsGroupsPairAndTail : Obligations.ShortAbsorbsGroupsPairAndTail := by
  refine ⟨fun groups pair tail s1 s2 h hgroups hpair htail _ hh => ?_, by decide⟩
  have hfront : 32 ∣ groups.flatten.length := ⟨_, length_flatten_groups hgroups⟩
  have hrest : (pair ++ tail).length < 32 := by
    have hlen : pair.length = 0 ∨ pair.length = 16 := hpair.imp_left List.length_eq_zero_iff.mpr
    rw [List.length_append]
    omega
  have hgroupsAbsorbed := absorbGroups_flatten (shortInit s1 s2) hgroups hrest
  rw [← List.append_assoc] at hgroupsAbsorbed
  rw [short, hgroupsAbsorbed, absorbLastPair_append _ hfront hpair htail, tailOffset_append hfront hpair htail,
    slice_to_end, List.drop_left, ← hh]

end Sys2Proof.Machine

/-! SUPPORT and proofs. The one-shot commands: Hash128 by length, the three commands in every state, and their frame
(R83, R86 to R90). -/

namespace Sys2Proof.Machine

/-! Hash128 (R83). -/

theorem hash128_eq_short {m : List Byte} (h : m.length ≤ 191) (s1 s2 : Word) : hash128 m s1 s2 = short m s1 s2 :=
  if_pos (by omega)

theorem hash128_eq_longHash {m : List Byte} (h : 192 ≤ m.length) (s1 s2 : Word) :
    hash128 m s1 s2 = longHash m s1 s2 :=
  if_neg (by omega)

/-- Settles O16: the two branches of the dispatch. -/
theorem hash128DispatchesOnLength : Obligations.Hash128DispatchesOnLength := fun _ s1 s2 =>
  ⟨fun h => hash128_eq_short h s1 s2, fun h => hash128_eq_longHash h s1 s2⟩

/-- The worked example of R86: the empty message takes the short path, whose digest is that of R81's example. -/
theorem hash128_nil_zero_seeds : hash128 [] 0 0 = (0x232706FC6BF50919, 0x8B72EE65B4E851C7) :=
  (hash128_eq_short (m := []) (Nat.zero_le 191) 0 0).trans shortAbsorbsGroupsPairAndTail.2

/-! The three commands, in every state (R86 to R88, R90). -/

/-- Settles O12: the word's decoding, what HASH128 answers in every state, and the worked example. -/
theorem hash128WritesTheOneShotDigest : Obligations.Hash128WritesTheOneShotDigest :=
  ⟨fun _ _ _ => decode_of_cmd_hash128 rfl, exec_hash128, hash128_nil_zero_seeds⟩

/-- Settles O13: HASH64 is `hash64With` under the default seeds, and under the example seeds it writes the first word
of the worked example. -/
theorem hash64WritesTheFirstWordUnderTheDefaultSeeds : Obligations.Hash64WritesTheFirstWordUnderTheDefaultSeeds :=
  ⟨fun _ _ _ => decode_of_cmd_hash64 rfl, exec_hash64,
    ⟨_, rfl, congrArg project64 hash128_nil_zero_seeds, rfl⟩, fun _ _ => rfl⟩

/-- Settles O14: HASH32 is `hash32With` under the default seeds, and under the example seeds it writes the low half of
the first word of the worked example. -/
theorem hash32WritesTheLowWordUnderTheDefaultSeeds : Obligations.Hash32WritesTheLowWordUnderTheDefaultSeeds :=
  ⟨fun _ _ _ => decode_of_cmd_hash32 rfl, exec_hash32,
    ⟨_, rfl, congrArg (fun digest => (project32 digest).setWidth 64) hash128_nil_zero_seeds, rfl⟩, fun _ _ => rfl⟩

/-- Settles O15: all three write projections of the one digest under the default seeds, whatever the state. -/
theorem projectionsAgreeWithHash128 : Obligations.ProjectionsAgreeWithHash128 := fun m s s' s'' =>
  ⟨_, _, _, exec_hash128 m _ _ s, exec_hash64 m s', exec_hash32 m s'', rfl, rfl⟩

/-! The frame of writing a result, and the commands that do it (R86 to R88, R93). -/

/-- A one-shot command writes two words that depend on its operands alone, in every state (R89). -/
theorem exec_oneShot {i : Instr} (hi : isOneShot i = true) :
    ∃ h1 h2 : Word, ∀ s : State, exec i s = .next (s.writeResult h1 h2).completed := by
  cases i with
  | init s1 s2 => nomatch hi
  | update f => nomatch hi
  | final => nomatch hi
  | hash128 m s1 s2 => exact ⟨_, _, exec_hash128 m s1 s2⟩
  | hash64 m => exact ⟨_, _, exec_hash64 m⟩
  | hash32 m => exact ⟨_, _, exec_hash32 m⟩

/-- A command of these four that succeeds has written a result and nothing else. -/
theorem exec_resultCommand_of_ok {i : Instr} {s t : State} (hi : isOneShot i = true ∨ i = .final)
    (h : exec i s = .next t) (hok : t.err = .ok) : ∃ h1 h2 : Word, t = (s.writeResult h1 h2).completed := by
  rcases hi with hi | rfl
  · obtain ⟨h1, h2, e⟩ := exec_oneShot hi
    exact ⟨h1, h2, Host.Outcome.next.inj (h.symm.trans (e s))⟩
  · rcases exec_final_cases s with ⟨-, e⟩ | ⟨-, e⟩ <;> obtain rfl := Host.Outcome.next.inj (h.symm.trans e)
    · nomatch hok
    · exact ⟨_, _, rfl⟩

theorem sameContext_writeResult_completed (s : State) (h1 h2 : Word) :
    SameContext s (s.writeResult h1 h2).completed :=
  ⟨rfl, rfl, rfl, fun _ => rfl, rfl⟩

/-- Settles O52: what is written is a result, which is no part of the context, of the host's side or of ERR_SEEN. -/
theorem resultCommandsChangeOnlyTheResult : Obligations.ResultCommandsChangeOnlyTheResult := by
  intro i s t hi h hok
  obtain ⟨h1, h2, rfl⟩ := exec_resultCommand_of_ok hi h hok
  exact ⟨sameContext_writeResult_completed s h1 h2, ⟨rfl, rfl, rfl⟩, rfl, rfl⟩

/-! A one-shot command between two packets of a stream (R89). -/

/-- The digest FINAL would write is a function of the context (R93). -/
theorem SameContext.streamDigest_eq {s t : State} (h : SameContext s t) : streamDigest t = streamDigest s := by
  have hrange (off n : Nat) : t.buf.readRange off n = s.buf.readRange off n :=
    Memory.readRange_congr fun j _ => h.buf (off + j)
  simp only [streamDigest, longStreamDigest, h.len, h.cnt, h.words, hrange]

/-- UPDATE neither reads nor writes the results: a result written before the fragment stands after it. -/
theorem absorbFragment_writeResult_completed (f : List Byte) (s : State) (h1 h2 : Word) :
    absorbFragment f (s.writeResult h1 h2).completed = ((absorbFragment f s).writeResult h1 h2).completed := by
  by_cases fits : s.cnt.val + f.length < 192
  · rw [absorbFragment_of_fits f s fits]
    exact absorbFragment_of_fits f (s.writeResult h1 h2).completed fits
  · have mixes := Nat.le_of_not_lt fits
    rw [absorbFragment_of_mixes f s mixes]
    exact absorbFragment_of_mixes f (s.writeResult h1 h2).completed mixes

/-- The same UPDATE before and after a result is written fails alike, or extends the same context alike. -/
theorem exec_update_after_writeResult {f : List Byte} {s u v : State} {h1 h2 : Word}
    (hu : exec (.update f) s = .next u) (hv : exec (.update f) (s.writeResult h1 h2).completed = .next v) :
    SameContext u v := by
  rcases exec_update_cases f s with ⟨hc, e⟩ | ⟨hc, ho, e⟩ | ⟨hc, ho, e⟩ <;>
    obtain rfl := Host.Outcome.next.inj (hu.symm.trans e)
  · obtain rfl := Host.Outcome.next.inj (hv.symm.trans (exec_update_noContext f _ hc))
    exact ⟨rfl, rfl, rfl, fun _ => rfl, rfl⟩
  · obtain rfl := Host.Outcome.next.inj (hv.symm.trans (exec_update_overflow f _ hc ho))
    exact ⟨rfl, rfl, rfl, fun _ => rfl, rfl⟩
  · obtain rfl := Host.Outcome.next.inj (hv.symm.trans (exec_update_ok f _ hc ho))
    rw [absorbFragment_writeResult_completed]
    exact ⟨rfl, rfl, rfl, fun _ => rfl, rfl⟩

/-- Settles O25: a one-shot command writes a result that its operands alone determine; neither the digest of a stream
nor UPDATE reads a result. -/
theorem oneShotCommandsLeaveTheStreamAlone : Obligations.OneShotCommandsLeaveTheStreamAlone := by
  intro i s t hi h
  obtain ⟨h1, h2, e⟩ := exec_oneShot hi
  obtain rfl := Host.Outcome.next.inj (h.symm.trans (e s))
  have hsame := sameContext_writeResult_completed s h1 h2
  refine ⟨hsame, hsame.streamDigest_eq, fun f u v hu hv => ?_, fun s' => ⟨_, e s', rfl, rfl, rfl⟩⟩
  have hnext := exec_update_after_writeResult hu hv
  exact ⟨hnext, hnext.streamDigest_eq⟩

end Sys2Proof.Machine

/-! SUPPORT and proofs. UPDATE: what it stores and what it leaves, in every state, and its corner cases (R92). -/

namespace Sys2Proof.Machine

/-! A store changes no other byte, whatever the order of BUF's cells. -/

theorem Memory.read_cons_of_ne {c : Host.Cell} {x : Nat} (h : c.1 ≠ x) (m : Memory) :
    Memory.read (c :: m) x = m.read x := if_neg h

theorem Memory.read_write_of_ne (m : Memory) {a x : Nat} (v : Byte) (h : a ≠ x) :
    (m.write a v).read x = m.read x := by
  induction m with
  | nil =>
    rw [Memory.write]
    split
    · rfl
    · exact Memory.read_cons_of_ne h []
  | cons c m ih =>
    rw [Memory.write]
    split
    case isTrue =>
      split
      · rfl
      · exact Memory.read_cons_of_ne h (c :: m)
    case isFalse =>
      split
      case isTrue hc =>
        rw [Memory.read_cons_of_ne (hc ▸ h) m]
        split
        · rfl
        · exact Memory.read_cons_of_ne h m
      case isFalse => rw [Memory.read_cons, Memory.read_cons, ih]

theorem Memory.read_writeRange_outside (m : Memory) (off : Nat) (bs : List Byte) {a : Nat}
    (h : ¬(off ≤ a ∧ a < off + bs.length)) : (m.writeRange off bs).read a = m.read a := by
  induction bs generalizing m off with
  | nil => rfl
  | cons b bs ih =>
    rw [List.length_cons] at h
    rw [Memory.writeRange, ih _ _ (by omega), Memory.read_write_of_ne m b (by omega)]

/-- Both branches of a successful UPDATE store where `updateStores` says and nowhere else. -/
theorem absorbFragment_read_outside {f : List Byte} {s : State} {a : Nat} (h : ¬updateStores f s a) :
    (absorbFragment f s).buf.read a = s.buf.read a := by
  by_cases fits : s.cnt.val + f.length < 192
  · rw [updateStores, if_pos fits] at h
    rw [absorbFragment_of_fits f s fits, stashFragment_buf]
    exact Memory.read_writeRange_outside _ _ _ h
  · rw [updateStores, if_neg fits] at h
    rw [absorbFragment_of_mixes f s (by omega), mixFragment_buf]
    refine Memory.read_writeRange_outside _ _ _ ?_
    rw [length_unabsorbed, State.length_joined]
    omega

theorem sameResults_absorbFragment_completed (f : List Byte) (s : State) :
    SameResults s (absorbFragment f s).completed :=
  ⟨absorbFragment_resH1 f s, absorbFragment_resH2 f s, absorbFragment_resultValid f s⟩

theorem sameHost_absorbFragment_completed (f : List Byte) (s : State) : SameHost s (absorbFragment f s).completed :=
  ⟨absorbFragment_script f s, absorbFragment_reads f s, absorbFragment_issued f s⟩

/-- Settles O54: a successful UPDATE is `absorbFragment`, whose frame holds in both branches. -/
theorem updateStoresOnlyItsBytes : Obligations.UpdateStoresOnlyItsBytes := by
  intro f s t h hok
  obtain ⟨-, -, rfl⟩ := exec_update_of_ok h hok
  exact ⟨fun a ha => absorbFragment_read_outside ha, fun fits => absorbFragment_S_of_fits fits,
    absorbFragment_ctxValid f s, sameResults_absorbFragment_completed f s, sameHost_absorbFragment_completed f s,
    absorbFragment_errSeen f s⟩

/-! The corner cases. -/

/-- The empty fragment always fits: it stores no byte and adds 0 to CNT and LEN. -/
theorem absorbFragment_nil (s : State) : absorbFragment [] s = s := by
  have hlen : s.len + BitVec.ofNat 64 0 = s.len := BitVec.add_zero _
  rw [absorbFragment_of_fits [] s s.cnt.isLt]
  show { s with len := s.len + BitVec.ofNat 64 0 } = s
  rw [hlen]

/-- With CNT = 191 and one more byte, T is two blocks: the first 96 bytes of BUF, and its other 95 with that byte. -/
theorem absorbFragment_S_of_two_blocks {s : State} (b : Byte) (hcnt : s.cnt = 191) :
    (absorbFragment [b] s).S = mix (mix s.mixStart (s.buf.readRange 0 96)) (s.buf.readRange 96 95 ++ [b]) := by
  have hval : s.cnt.val = 191 := congrArg Fin.val hcnt
  have hT : s.joined [b] = [s.buf.readRange 0 96, s.buf.readRange 96 95 ++ [b]].flatten ++ [] := by
    rw [State.joined, hval, Memory.readRange_add s.buf 0 96 95]
    simp
  have hblocks : ∀ block ∈ [s.buf.readRange 0 96, s.buf.readRange 96 95 ++ [b]], block.length = 96 := by simp
  have hcount : (s.cnt.val + [b].length) / 96 = 2 := by simp [hval]
  have hfold := mixBlocks_flatten _ [] s.mixStart hblocks
  rw [List.foldl_cons, List.foldl_cons, List.foldl_nil] at hfold
  rw [absorbFragment_S_of_mixes (by simp [hval]), hcount, hT]
  exact hfold

/-- Settles O9: the empty fragment changes nothing, the rest of T is shorter than a block, and T is two blocks. -/
theorem updateCornerCases : Obligations.UpdateCornerCases := by
  refine ⟨fun s hc => ?_, fun f s t h hok hmix => ?_, fun b s t h hok hcnt => ?_⟩
  · rw [exec_update_ok [] s hc (Nat.le_sub_one_of_lt s.len.isLt), absorbFragment_nil]
    rfl
  · obtain ⟨-, -, rfl⟩ := exec_update_of_ok h hok
    have hcnt := absorbFragment_cnt f s
    rw [if_neg (by omega)] at hcnt
    rw [State.completed_cnt, hcnt]
    exact ⟨by omega, rfl⟩
  · obtain ⟨-, -, rfl⟩ := exec_update_of_ok h hok
    refine ⟨Fin.ext ?_, absorbFragment_S_of_two_blocks b hcnt⟩
    rw [State.completed_cnt, absorbFragment_cnt, hcnt, List.length_singleton]
    rfl

/-! UPDATE in every state, and the worked example. -/

theorem exec_update_fits {f : List Byte} {s : State} (hc : s.ctxValid = true)
    (ho : s.len.toNat + f.length ≤ 2 ^ 64 - 1) (fits : s.cnt.val + f.length < 192) :
    exec (.update f) s = .next (stashFragment f s fits).completed := by
  rw [exec_update_ok f s hc ho, absorbFragment_of_fits f s fits]

theorem exec_update_mixes {f : List Byte} {s : State} (hc : s.ctxValid = true)
    (ho : s.len.toNat + f.length ≤ 2 ^ 64 - 1) (hmix : 192 ≤ s.cnt.val + f.length) :
    exec (.update f) s = .next (mixFragment f s).completed := by
  rw [exec_update_ok f s hc ho, absorbFragment_of_mixes f s hmix]

/-- Settles O8: the two errors and the two branches by their equations; in the example 100 bytes are stashed, and with
the next 100 two blocks are mixed and 8 bytes stay. -/
theorem updateAppendsAFragment : Obligations.UpdateAppendsAFragment := by
  refine ⟨fun _ _ _ => decode_of_cmd_update rfl, exec_update_noContext, exec_update_overflow,
    fun f s hc ho fits => exec_update_fits hc ho fits, fun f t s hc ho hmix ht => ?_, ?_⟩
  · subst ht
    exact exec_update_mixes hc ho hmix
  · refine ⟨_, _, _, exec_init 0 0 State.reset, exec_update_fits rfl (by decide) (by decide), ?_, ?_, ?_,
      exec_update_mixes rfl (by decide) (by decide), ?_, ?_, ?_⟩ <;> decide

end Sys2Proof.Machine

/-! SUPPORT and proofs. INIT in every state and its frame, FINAL in every state, and what FINAL leaves alone
(R91, R93, R94). -/

namespace Sys2Proof.Machine

/-! INIT (R91). -/

/-- Settles O7: INIT's equation, in which LEN is 0, so the context is in short form; the example is computed. -/
theorem initStartsANewStream : Obligations.InitStartsANewStream := by
  refine ⟨fun _ _ _ => decode_of_cmd_init rfl, exec_init, fun s1 s2 s t h => ?_,
    ⟨_, exec_init 1 2 State.reset, by decide, rfl⟩⟩
  obtain rfl := Host.Outcome.next.inj h
  rfl

/-- The two seeds go to S[0] and S[1] only (R91). -/
theorem wordAt_startStream (s1 s2 : Word) (s : State) {k : Nat} (hlow : 2 ≤ k) (hhigh : k < 12) :
    wordAt (startStream s1 s2 s).S k = wordAt s.S k := by
  rw [startStream_S, wordAt_setWord, if_neg (by omega), wordAt_setWord, if_neg (by omega)]

/-- Settles O53: INIT writes two words of S, and none of BUF, the results, ERR_SEEN and the host's side. -/
theorem initKeepsBufferResultsAndOtherWords : Obligations.InitKeepsBufferResultsAndOtherWords := by
  intro s1 s2 s t h
  obtain rfl := Host.Outcome.next.inj (h.symm.trans (exec_init s1 s2 s))
  exact ⟨fun _ hlow hhigh => wordAt_startStream s1 s2 s hlow hhigh, fun _ => rfl, ⟨rfl, rfl, rfl⟩, ⟨rfl, rfl, rfl⟩,
    rfl⟩

/-! FINAL in every state (R93). -/

theorem streamDigest_of_short {s : State} (h : s.len.toNat < 192) :
    streamDigest s = short (s.buf.readRange 0 s.len.toNat) (wordAt s.S 0) (wordAt s.S 1) := if_pos h

/-- The digest of a long-form stream with no complete block buffered. -/
theorem streamDigest_of_tail {s : State} (hlong : 192 ≤ s.len.toNat) (hcnt : s.cnt.val < 96) {h : Vector Word 12}
    (hh : h = endLong s.S (tailBlock (s.buf.readRange 0 s.cnt.val))) : streamDigest s = (wordAt h 0, wordAt h 1) := by
  have hno : ¬s.cnt.val ≥ 96 := by omega
  rw [streamDigest, if_neg (by omega), longStreamDigest, if_neg hno, if_neg hno, Nat.sub_zero, ← hh]

/-- The digest of a long-form stream with a complete block buffered. -/
theorem streamDigest_of_block_and_tail {s : State} (hlong : 192 ≤ s.len.toNat) (hcnt : 96 ≤ s.cnt.val)
    {h : Vector Word 12}
    (hh : h = endLong (mix s.S (s.buf.readRange 0 96)) (tailBlock (s.buf.readRange 96 (s.cnt.val - 96)))) :
    streamDigest s = (wordAt h 0, wordAt h 1) := by
  rw [streamDigest, if_neg (by omega), longStreamDigest, if_pos hcnt, if_pos hcnt, ← hh]

theorem exec_final_digest {s : State} {d : Word × Word} (hc : s.ctxValid = true) (hdigest : streamDigest s = d) :
    exec .final s = .next { s with resH1 := d.1, resH2 := d.2, resultValid := true, err := .ok } := by
  rw [exec_final_ok s hc, hdigest]
  rfl

/-- Settles O10: the digest in each form of the stream; the example is the stream of the empty message. -/
theorem finalWritesTheDigestOfTheStream : Obligations.FinalWritesTheDigestOfTheStream := by
  refine ⟨fun _ _ _ => decode_of_cmd_final rfl, exec_final_noContext,
    fun s hc hshort => exec_final_digest hc (streamDigest_of_short hshort),
    fun s h hc hlong hcnt hh => exec_final_digest hc (streamDigest_of_tail hlong hcnt hh),
    fun s h hc hlong hcnt hh => exec_final_digest hc (streamDigest_of_block_and_tail hlong hcnt hh), ?_⟩
  have hempty := (startStream_holds 0 0 State.reset).completed.streamDigest_eq.trans hash128_nil_zero_seeds
  exact ⟨_, _, exec_init 0 0 State.reset, exec_final_digest rfl hempty, rfl, rfl⟩

/-! FINAL and the commands around it (R94). -/

/-- FINAL writes, and does not read, the result registers and ERR. -/
theorem exec_final_of_result {s : State} (hc : s.ctxValid = true) (h1 h2 : Word) (v : Bool) (e : ErrCode) :
    exec .final { s with resH1 := h1, resH2 := h2, resultValid := v, err := e } = exec .final s :=
  (exec_final_ok { s with resH1 := h1, resH2 := h2, resultValid := v, err := e } hc).trans (exec_final_ok s hc).symm

theorem SameContext.trans {s t u : State} (h : SameContext s t) (h' : SameContext t u) : SameContext s u :=
  ⟨h'.ctxValid.trans h.ctxValid, h'.len.trans h.len, h'.cnt.trans h.cnt, fun a => (h'.buf a).trans (h.buf a),
    h'.words.trans h.words⟩

theorem sameContext_packetTaken (s : State) (rest : List HostAction) : SameContext s (s.packetTaken rest) :=
  ⟨rfl, rfl, rfl, fun _ => rfl, rfl⟩

/-- Only the packets of INIT and UPDATE change the streaming context (R24, R89, R94). -/
theorem issuePacket_sameContext {p : Packet} {s t : State} (h : issuePacket p s = .next t)
    (hinit : p.cmd ≠ 0x00000001) (hupdate : p.cmd ≠ 0x00000002) : SameContext s t := by
  rcases issuePacket_next_cases h with
    ⟨code, -, -, rfl⟩ | ⟨hcmd, -⟩ | ⟨hcmd, -⟩ | ⟨-, h1, h2, rfl⟩
  · exact ⟨rfl, rfl, rfl, fun _ => rfl, rfl⟩
  · exact absurd hcmd hinit
  · exact absurd hcmd hupdate
  · exact sameContext_writeResult_completed s h1 h2

/-- Any number of packets other than INIT and UPDATE keep the streaming context. -/
theorem run_packets_sameContext (packets : List Packet) {s : State}
    (hother : ∀ p ∈ packets, p.cmd ≠ 0x00000001 ∧ p.cmd ≠ 0x00000002) (hscript : s.script = packets.map .issue) :
    ∃ t : State, Sys2Proof.core.run packets.length s = .next t ∧ SameContext s t := by
  induction packets generalizing s with
  | nil => exact ⟨s, rfl, rfl, rfl, rfl, fun _ => rfl, rfl⟩
  | cons p packets ih =>
    obtain ⟨hp, hpackets⟩ := List.forall_mem_cons.mp hother
    obtain ⟨t, ht⟩ := issuePacket_answers_next p (s.packetTaken (packets.map .issue))
    have hfirst := issuePacket_sameContext ht hp.1 hp.2
    obtain ⟨u, hrun, hrest⟩ := ih hpackets (issuePacket_script ht)
    exact ⟨u, (run_succ ((step_issue hscript).trans ht)).trans hrun,
      ((sameContext_packetTaken s _).trans hfirst).trans hrest⟩

/-- How UPDATE comes out depends on CTX_VALID and LEN only (R101). -/
theorem exec_update_err {f : List Byte} {s t : State} (h : exec (.update f) s = .next t) :
    t.err = if s.ctxValid = false then .noContext
      else if s.len.toNat + f.length > 2 ^ 64 - 1 then .lengthOverflow else .ok := by
  rcases exec_update_cases f s with ⟨hc, e⟩ | ⟨hc, ho, e⟩ | ⟨hc, ho, e⟩ <;>
    obtain rfl := Host.Outcome.next.inj (h.symm.trans e)
  · rw [if_pos hc, State.failed_err]
  · rw [if_neg (by simp [hc]), if_pos ho, State.failed_err]
  · rw [if_neg (by simp [hc]), if_neg (by omega), State.completed_err]

/-- Settles O11: FINAL writes a result that the context alone determines, and neither the other packets between two
FINALs nor FINAL itself changes the context. -/
theorem finalIsIdempotent : Obligations.FinalIsIdempotent := by
  refine ⟨fun s hc => ?_, fun s t h1 h2 v e hc h => (exec_final_of_result hc h1 h2 v e).trans h,
    fun s t between hc h hother => ?_, fun f s t u hc h hu => ?_⟩
  · have hfinal := exec_final_ok s hc
    exact ⟨_, hfinal, (exec_final_of_result hc _ _ _ _).trans hfinal, sameContext_writeResult_completed s _ _, rfl⟩
  · obtain rfl := Host.Outcome.next.inj (h.symm.trans (exec_final_ok s hc))
    obtain ⟨u, hrun, hbetween⟩ := run_packets_sameContext between hother
      (s := { (s.writeResult (streamDigest s).1 (streamDigest s).2).completed with script := between.map .issue }) rfl
    have hdigest : streamDigest u = streamDigest s := hbetween.streamDigest_eq
    refine ⟨u, _, hrun, exec_final_ok u (hbetween.ctxValid.trans hc), ?_, ?_⟩
    · exact congrArg Prod.fst hdigest
    · exact congrArg Prod.snd hdigest
  · obtain rfl := Host.Outcome.next.inj (h.symm.trans (exec_final_ok s hc))
    obtain ⟨v, hv⟩ := exec_answers_next (.update f) s
    exact ⟨v, hv, exec_update_after_writeResult hv hu, (exec_update_err hu).trans (exec_update_err hv).symm⟩

end Sys2Proof.Machine

/-! SUPPORT and proofs. How a packet comes out: which check it fails, what a failure writes, and what becomes of
ERR_SEEN (R97 to R101); and the idle step (R112). -/

namespace Sys2Proof.Machine

/-- A packet fails, and only the error fields change, or it does not, and ERR_SEEN keeps its value (R99, R100). -/
theorem issuePacket_fails_or_completes {p : Packet} {s t : State} (h : issuePacket p s = .next t) :
    (t.err ≠ .ok ∧ t = s.failed t.err) ∨ (t.err = .ok ∧ t.errSeen = s.errSeen) := by
  rcases issuePacket_next_cases h with
    ⟨code, hcode, -, rfl⟩ | ⟨-, rfl⟩ | ⟨-, -, -, rfl⟩ | ⟨-, h1, h2, rfl⟩
  · exact .inl ⟨hcode, rfl⟩
  · exact .inr ⟨rfl, rfl⟩
  · exact .inr ⟨rfl, by simp⟩
  · exact .inr ⟨rfl, rfl⟩

/-- No packet clears ERR_SEEN. -/
theorem issuePacket_keeps_errSeen {p : Packet} {s t : State} (h : issuePacket p s = .next t)
    (hseen : s.errSeen = true) : t.errSeen = true := by
  rcases issuePacket_fails_or_completes h with ⟨-, ht⟩ | ⟨-, ht⟩
  · rw [ht, State.failed_errSeen]
  · rw [ht, hseen]

/-- No interaction but a reset clears ERR_SEEN (R99). -/
theorem hostAct_keeps_errSeen {a : HostAction} {s t : State} (h : hostAct a s = .next t) (ha : isReset a = false)
    (hseen : s.errSeen = true) : t.errSeen = true := by
  cases a with
  | reset => cases ha
  | resetDuring p => cases ha
  | issue p => exact issuePacket_keeps_errSeen h hseen
  | read idx =>
    obtain rfl := Host.Outcome.next.inj h
    exact hseen

/-- Settles O17: a packet that does not complete is a failure, and ERR_SEEN outlasts all but a reset. -/
theorem failedCommandChangesOnlyTheErrorFields : Obligations.FailedCommandChangesOnlyTheErrorFields := by
  refine ⟨raiseCommandError_eq, fun p s t h herr => ?_, fun s t h hseen hreset => ?_⟩
  · rcases issuePacket_fails_or_completes h with ⟨-, ht⟩ | ⟨hok, -⟩
    · exact ht
    · exact absurd hok herr
  · rcases hscript : s.script with _ | ⟨a, rest⟩
    · obtain rfl := Host.Outcome.next.inj ((step_nil hscript).symm.trans h)
      exact hseen
    · rw [step_cons hscript] at h
      exact hostAct_keeps_errSeen h (hreset a rest hscript) hseen

/-- Settles O19: a failed packet sets ERR_SEEN, and one that completes keeps it. -/
theorem errSeenRecordsEveryFailure : Obligations.ErrSeenRecordsEveryFailure := by
  refine ⟨rfl, succeed_eq, fun p s t h => ?_⟩
  rcases issuePacket_fails_or_completes h with ⟨herr, ht⟩ | ⟨hok, hseen⟩
  · rw [decide_eq_true herr, Bool.or_true, ht, State.failed_errSeen]
  · rw [decide_eq_false (not_not_intro hok), Bool.or_false, hseen]

/-- The decoder rejects none of the words 1 to 6 (R55, R58). -/
theorem illegalWord_of_decode {p : Packet} {why : Illegal} (h : decode p = .illegal why) :
    ¬(1 ≤ p.cmd.toNat ∧ p.cmd.toNat ≤ 6) := by
  intro hlegal
  have hword : p.cmd = 1 ∨ p.cmd = 2 ∨ p.cmd = 3 ∨ p.cmd = 4 ∨ p.cmd = 5 ∨ p.cmd = 6 := by bv_omega
  rcases hword with hw | hw | hw | hw | hw | hw
  · nomatch h.symm.trans (decode_of_cmd_init hw)
  · nomatch h.symm.trans (decode_of_cmd_update hw)
  · nomatch h.symm.trans (decode_of_cmd_final hw)
  · nomatch h.symm.trans (decode_of_cmd_hash128 hw)
  · nomatch h.symm.trans (decode_of_cmd_hash64 hw)
  · nomatch h.symm.trans (decode_of_cmd_hash32 hw)

/-- How FINAL comes out depends on CTX_VALID only (R93, R101). -/
theorem exec_final_err {s t : State} (h : exec .final s = .next t) :
    t.err = if s.ctxValid = false then .noContext else .ok := by
  rcases exec_final_cases s with ⟨hc, e⟩ | ⟨hc, e⟩ <;> obtain rfl := Host.Outcome.next.inj (h.symm.trans e)
  · rw [if_pos hc, State.failed_err]
  · rw [if_neg (by simp [hc]), State.completed_err]

/-- INIT and the one-shot commands have no check to fail (R101). -/
theorem exec_err_of_unchecked {i : Instr} {s t : State} (h : exec i s = .next t) (hupdate : ∀ f, i ≠ .update f)
    (hfinal : i ≠ .final) : t.err = .ok := by
  cases i with
  | update f => exact absurd rfl (hupdate f)
  | final => exact absurd rfl hfinal
  | init s1 s2 => exact Host.Outcome.next.inj h ▸ rfl
  | hash128 m s1 s2 => exact Host.Outcome.next.inj h ▸ rfl
  | hash64 m => exact Host.Outcome.next.inj h ▸ rfl
  | hash32 m => exact Host.Outcome.next.inj h ▸ rfl

/-- Settles O18: an illegal word fails at once; of the six commands UPDATE has two checks, FINAL one, and the others
none. -/
theorem checksAreReportedInOrder : Obligations.ChecksAreReportedInOrder := by
  refine ⟨⟨rfl, rfl, rfl, rfl⟩, fun p s => ?_⟩
  obtain ⟨t, ht⟩ := issuePacket_answers_next p s
  refine ⟨t, ht, ?_⟩
  rcases issuePacket_cases p s with ⟨why, hd, e⟩ | ⟨i, hd, e⟩
  · obtain rfl := Host.Outcome.next.inj (ht.symm.trans e)
    rw [if_pos (illegalWord_of_decode hd), State.failed_err]
  · have hexec := e.symm.trans ht
    rcases decode_command_cases hd with ⟨hw, rfl⟩ | ⟨hw, rfl⟩ | ⟨hw, rfl⟩ | ⟨hw, rfl⟩ | ⟨hw, rfl⟩ | ⟨hw, rfl⟩
    · simp [hw, exec_err_of_unchecked hexec]
    · simp [hw, exec_update_err hexec]
    · simp [hw, exec_final_err hexec]
    · simp [hw, exec_err_of_unchecked hexec]
    · simp [hw, exec_err_of_unchecked hexec]
    · simp [hw, exec_err_of_unchecked hexec]

/-- Settles O47: an empty script is the first case of a step. -/
theorem idleCoreKeepsItsState : Obligations.IdleCoreKeepsItsState := fun _ => step_nil

end Sys2Proof.Machine
